-- ==== Sys2Proof/Word.lean ====
section
/-! DEFINITION. The word types of the core (spec/00_scope.md R5, R7, R8): bytes, 16-bit words, 12-bit
addresses, register indexes and key codes. Every value is unsigned (R8). -/

namespace Sys2Proof

/-- A byte: a general register, a timer, a memory cell, the immediate NN (R5). -/
abbrev Byte := BitVec 8

/-- A 16-bit word: an instruction word, PC, I, a stack entry (R5). -/
abbrev Word := BitVec 16

/-- The 12-bit address field NNN of an instruction word (R7, R71). -/
abbrev Addr := BitVec 12

/-- A register index 0x0 to 0xF: every index a 4-bit X or Y field can form (R20). -/
abbrev Reg := Fin 16

/-- A key code 0x0 to 0xF (R5, R15). -/
abbrev Key := Fin 16

end Sys2Proof
end

