-- ==== Sys2Proof/Syntax.lean ====
section
/-! DEFINITION. The instructions: one constructor per row of spec/opcode_table.json, named by its pattern,
the only name the spec uses (spec/30_encoding.md R77, R84; D20). Fields are those of R71: x and y select
registers, n is a count, nn an 8-bit immediate, nnn a 12-bit address. -/

namespace Sys2Proof

/-- The 32 executing patterns (R2), the two named unsupported patterns FX55 and FX65 (R174, R175), and the
0NNN words other than 00E0 and 00EE (R79). -/
inductive Instr where
  /-- 00E0, clear the screen (R190). -/
  | op00E0
  /-- 00EE, return from subroutine (R100). -/
  | op00EE
  /-- 1NNN, jump (R101). -/
  | op1NNN (nnn : Addr)
  /-- 2NNN, call subroutine (R102). -/
  | op2NNN (nnn : Addr)
  /-- 3XNN, skip if equal to immediate (R103). -/
  | op3XNN (x : Reg) (nn : Byte)
  /-- 4XNN, skip if not equal to immediate (R104). -/
  | op4XNN (x : Reg) (nn : Byte)
  /-- 5XY0, skip if registers equal (R105). -/
  | op5XY0 (x y : Reg)
  /-- 6XNN, load immediate (R131). -/
  | op6XNN (x : Reg) (nn : Byte)
  /-- 7XNN, add immediate, no carry (R132). -/
  | op7XNN (x : Reg) (nn : Byte)
  /-- 8XY0, copy register (R133). -/
  | op8XY0 (x y : Reg)
  /-- 8XY1, bitwise OR (R134). -/
  | op8XY1 (x y : Reg)
  /-- 8XY2, bitwise AND (R135). -/
  | op8XY2 (x y : Reg)
  /-- 8XY3, bitwise XOR (R136). -/
  | op8XY3 (x y : Reg)
  /-- 8XY4, add with carry flag (R137). -/
  | op8XY4 (x y : Reg)
  /-- 8XY5, subtract V[Y] from V[X] (R138). -/
  | op8XY5 (x y : Reg)
  /-- 8XY6, shift right by one; y is decoded and not used (R139, R80). -/
  | op8XY6 (x y : Reg)
  /-- 8XY7, subtract V[X] from V[Y] (R140). -/
  | op8XY7 (x y : Reg)
  /-- 8XYE, shift left by one; y is decoded and not used (R141, R80). -/
  | op8XYE (x y : Reg)
  /-- 9XY0, skip if registers not equal (R106). -/
  | op9XY0 (x y : Reg)
  /-- ANNN, load index register (R170). -/
  | opANNN (nnn : Addr)
  /-- BNNN, jump with offset V0 (R107). -/
  | opBNNN (nnn : Addr)
  /-- CXNN, random byte masked by immediate (R142). -/
  | opCXNN (x : Reg) (nn : Byte)
  /-- DXYN, draw sprite of n rows (R192). -/
  | opDXYN (x y : Reg) (n : Fin 16)
  /-- EX9E, skip if the latched key equals V[X] (R210). -/
  | opEX9E (x : Reg)
  /-- EXA1, skip if the latched key differs from V[X] (R211). -/
  | opEXA1 (x : Reg)
  /-- FX07, read the delay timer (R212). -/
  | opFX07 (x : Reg)
  /-- FX0A, wait for a key and load it (R213). -/
  | opFX0A (x : Reg)
  /-- FX15, set the delay timer (R214). -/
  | opFX15 (x : Reg)
  /-- FX18, set the sound timer (R215). -/
  | opFX18 (x : Reg)
  /-- FX1E, add register to index (R171). -/
  | opFX1E (x : Reg)
  /-- FX29, point index at a font glyph (R172). -/
  | opFX29 (x : Reg)
  /-- FX33, store binary-coded decimal (R173). -/
  | opFX33 (x : Reg)
  /-- FX55, decoded and unsupported (R174). -/
  | opFX55 (x : Reg)
  /-- FX65, decoded and unsupported (R175). -/
  | opFX65 (x : Reg)
  /-- 0NNN, every word 0x0000 to 0x0FFF other than 0x00E0 and 0x00EE: unsupported (R79). -/
  | op0NNN (nnn : Addr)
  deriving DecidableEq, Repr

end Sys2Proof
end

