-- ==== Sys2Proof/WellFormed.lean ====
section
/-! DEFINITION. Which terms of `Instr` stand for a word of their own row. The field types already bound
every operand; the one check left is that 0NNN does not take the two words of 00E0 and 00EE
(spec/30_encoding.md R79; spec/opcode_table.json, row 0NNN: those two "take precedence"). -/

namespace Sys2Proof

/-- The instruction is the meaning of some word: `op0NNN` leaves 0x0E0 to 00E0 and 0x0EE to 00EE (R79). -/
def Instr.wf : Instr → Bool
  | .op0NNN nnn => nnn != 0x0E0 && nnn != 0x0EE
  | .op00E0 | .op00EE | .op1NNN _ | .op2NNN _ | .op3XNN _ _ | .op4XNN _ _ | .op5XY0 _ _
  | .op6XNN _ _ | .op7XNN _ _ | .op8XY0 _ _ | .op8XY1 _ _ | .op8XY2 _ _ | .op8XY3 _ _
  | .op8XY4 _ _ | .op8XY5 _ _ | .op8XY6 _ _ | .op8XY7 _ _ | .op8XYE _ _ | .op9XY0 _ _
  | .opANNN _ | .opBNNN _ | .opCXNN _ _ | .opDXYN _ _ _ | .opEX9E _ | .opEXA1 _ | .opFX07 _
  | .opFX0A _ | .opFX15 _ | .opFX18 _ | .opFX1E _ | .opFX29 _ | .opFX33 _ | .opFX55 _
  | .opFX65 _ => true

end Sys2Proof
end

