-- ==== Sys2Proof/Decode.lean ====
section
/-! DEFINITION. The decoder and the encoder (spec/30_encoding.md R70 to R83). The decoder is the table of
R77, a word matching a row when `(w AND mask) = match` (R76); the encoder writes each pattern's nibbles. -/

namespace Sys2Proof

/-- Why bytes are no instruction. -/
inductive DecodeError where
  /-- Fewer than the two bytes every instruction has (R82). Raised by `decodeBytes` only; the core's fetch
  always supplies two bytes or faults before decoding. Safe. -/
  | truncated
  /-- The word matches no row (R78). The cycle turns it into the fault UnsupportedInstruction(w). Safe. -/
  | unsupported (w : Word)
  deriving DecidableEq, Repr

/-- `X = w[11:8]` (R7, R71). -/
def fieldX (w : Word) : Reg := (w.extractLsb' 8 4).toFin

/-- `Y = w[7:4]` (R7, R71). -/
def fieldY (w : Word) : Reg := (w.extractLsb' 4 4).toFin

/-- `N = w[3:0]` (R7, R71). -/
def fieldN (w : Word) : Fin 16 := (w.extractLsb' 0 4).toFin

/-- `NN = w[7:0]` (R7, R71). -/
def fieldNN (w : Word) : Byte := w.extractLsb' 0 8

/-- `NNN = w[11:0]` (R7, R71). -/
def fieldNNN (w : Word) : Addr := w.extractLsb' 0 12

/-- One row of the decode table: its mask, its match value and the instruction it builds (R77). -/
structure Row where
  mask : Word
  bits : Word
  build : Word → Instr

/-- A row matches when `(w AND mask) = match` (R76). -/
def Row.accepts (r : Row) (w : Word) : Bool := w &&& r.mask == r.bits

/-- The 34 rows of R77, in its order. -/
def rowsR77 : List Row :=
  [⟨0xFFFF, 0x00E0, fun _ => .op00E0⟩,
   ⟨0xFFFF, 0x00EE, fun _ => .op00EE⟩,
   ⟨0xF000, 0x1000, fun w => .op1NNN (fieldNNN w)⟩,
   ⟨0xF000, 0x2000, fun w => .op2NNN (fieldNNN w)⟩,
   ⟨0xF000, 0x3000, fun w => .op3XNN (fieldX w) (fieldNN w)⟩,
   ⟨0xF000, 0x4000, fun w => .op4XNN (fieldX w) (fieldNN w)⟩,
   ⟨0xF00F, 0x5000, fun w => .op5XY0 (fieldX w) (fieldY w)⟩,
   ⟨0xF000, 0x6000, fun w => .op6XNN (fieldX w) (fieldNN w)⟩,
   ⟨0xF000, 0x7000, fun w => .op7XNN (fieldX w) (fieldNN w)⟩,
   ⟨0xF00F, 0x8000, fun w => .op8XY0 (fieldX w) (fieldY w)⟩,
   ⟨0xF00F, 0x8001, fun w => .op8XY1 (fieldX w) (fieldY w)⟩,
   ⟨0xF00F, 0x8002, fun w => .op8XY2 (fieldX w) (fieldY w)⟩,
   ⟨0xF00F, 0x8003, fun w => .op8XY3 (fieldX w) (fieldY w)⟩,
   ⟨0xF00F, 0x8004, fun w => .op8XY4 (fieldX w) (fieldY w)⟩,
   ⟨0xF00F, 0x8005, fun w => .op8XY5 (fieldX w) (fieldY w)⟩,
   ⟨0xF00F, 0x8006, fun w => .op8XY6 (fieldX w) (fieldY w)⟩,
   ⟨0xF00F, 0x8007, fun w => .op8XY7 (fieldX w) (fieldY w)⟩,
   ⟨0xF00F, 0x800E, fun w => .op8XYE (fieldX w) (fieldY w)⟩] ++
  [⟨0xF00F, 0x9000, fun w => .op9XY0 (fieldX w) (fieldY w)⟩,
   ⟨0xF000, 0xA000, fun w => .opANNN (fieldNNN w)⟩,
   ⟨0xF000, 0xB000, fun w => .opBNNN (fieldNNN w)⟩,
   ⟨0xF000, 0xC000, fun w => .opCXNN (fieldX w) (fieldNN w)⟩,
   ⟨0xF000, 0xD000, fun w => .opDXYN (fieldX w) (fieldY w) (fieldN w)⟩,
   ⟨0xF0FF, 0xE09E, fun w => .opEX9E (fieldX w)⟩,
   ⟨0xF0FF, 0xE0A1, fun w => .opEXA1 (fieldX w)⟩,
   ⟨0xF0FF, 0xF007, fun w => .opFX07 (fieldX w)⟩,
   ⟨0xF0FF, 0xF00A, fun w => .opFX0A (fieldX w)⟩,
   ⟨0xF0FF, 0xF015, fun w => .opFX15 (fieldX w)⟩,
   ⟨0xF0FF, 0xF018, fun w => .opFX18 (fieldX w)⟩,
   ⟨0xF0FF, 0xF01E, fun w => .opFX1E (fieldX w)⟩,
   ⟨0xF0FF, 0xF029, fun w => .opFX29 (fieldX w)⟩,
   ⟨0xF0FF, 0xF033, fun w => .opFX33 (fieldX w)⟩,
   ⟨0xF0FF, 0xF055, fun w => .opFX55 (fieldX w)⟩,
   ⟨0xF0FF, 0xF065, fun w => .opFX65 (fieldX w)⟩]

/-- The table's 35th row, 0NNN, which yields to 00E0 and 00EE and so stands last (R79;
spec/opcode_table.json). -/
def row0NNN : Row := ⟨0xF000, 0x0000, fun w => .op0NNN (fieldNNN w)⟩

/-- The decode table: the rows of R77, then 0NNN. -/
def decodeTable : List Row := rowsR77 ++ [row0NNN]

/-- Decoding is a function of the 16-bit word alone (R83): the row that matches, or the word is
unsupported (R76, R78). -/
def decode (w : Word) : Except DecodeError Instr :=
  match decodeTable.find? (·.accepts w) with
  | some r => .ok (r.build w)
  | none => .error (.unsupported w)

/-- `hi ++ lo` of R7: the byte at the lower address is the more significant (R50). -/
def wordOfBytes (hi lo : Byte) : Word := hi ++ lo

/-- Decoding takes two bytes, the more significant first, and leaves the rest (R50, R70, R82). -/
def decodeBytes : List Byte → Except DecodeError (Instr × List Byte)
  | hi :: lo :: rest =>
    match decode (wordOfBytes hi lo) with
    | .ok i => .ok (i, rest)
    | .error e => .error e
  | [_] => .error .truncated
  | [] => .error .truncated

/-- A 4-bit field as bits (R70). -/
def nibble (x : Fin 16) : BitVec 4 := BitVec.ofFin x

/-- A word from its class nibble, X and NN (R70). -/
def wordXNN (top : BitVec 4) (x : Reg) (nn : Byte) : Word := top ++ nibble x ++ nn

/-- A word from its class nibble and NNN (R70). -/
def wordNNN (top : BitVec 4) (nnn : Addr) : Word := top ++ nnn

/-- A word from its class nibble, X, Y and the low nibble (R70). -/
def wordXYN (top : BitVec 4) (x y : Reg) (n : Fin 16) : Word :=
  top ++ nibble x ++ nibble y ++ nibble n

/-- The word of a well-formed instruction: each pattern's four nibbles, fixed digits as written and
fields in their places (R7, R70, R77). -/
def encode : Instr → Word
  | .op00E0 => 0x00E0
  | .op00EE => 0x00EE
  | .op1NNN nnn => wordNNN 0x1 nnn
  | .op2NNN nnn => wordNNN 0x2 nnn
  | .op3XNN x nn => wordXNN 0x3 x nn
  | .op4XNN x nn => wordXNN 0x4 x nn
  | .op5XY0 x y => wordXYN 0x5 x y 0x0
  | .op6XNN x nn => wordXNN 0x6 x nn
  | .op7XNN x nn => wordXNN 0x7 x nn
  | .op8XY0 x y => wordXYN 0x8 x y 0x0
  | .op8XY1 x y => wordXYN 0x8 x y 0x1
  | .op8XY2 x y => wordXYN 0x8 x y 0x2
  | .op8XY3 x y => wordXYN 0x8 x y 0x3
  | .op8XY4 x y => wordXYN 0x8 x y 0x4
  | .op8XY5 x y => wordXYN 0x8 x y 0x5
  | .op8XY6 x y => wordXYN 0x8 x y 0x6
  | .op8XY7 x y => wordXYN 0x8 x y 0x7
  | .op8XYE x y => wordXYN 0x8 x y 0xE
  | .op9XY0 x y => wordXYN 0x9 x y 0x0
  | .opANNN nnn => wordNNN 0xA nnn
  | .opBNNN nnn => wordNNN 0xB nnn
  | .opCXNN x nn => wordXNN 0xC x nn
  | .opDXYN x y n => wordXYN 0xD x y n
  | .opEX9E x => wordXNN 0xE x 0x9E
  | .opEXA1 x => wordXNN 0xE x 0xA1
  | .opFX07 x => wordXNN 0xF x 0x07
  | .opFX0A x => wordXNN 0xF x 0x0A
  | .opFX15 x => wordXNN 0xF x 0x15
  | .opFX18 x => wordXNN 0xF x 0x18
  | .opFX1E x => wordXNN 0xF x 0x1E
  | .opFX29 x => wordXNN 0xF x 0x29
  | .opFX33 x => wordXNN 0xF x 0x33
  | .opFX55 x => wordXNN 0xF x 0x55
  | .opFX65 x => wordXNN 0xF x 0x65
  | .op0NNN nnn => wordNNN 0x0 nnn

/-- The more significant byte of a word, stored at the lower address (R50). -/
def highByte (w : Word) : Byte := w.extractLsb' 8 8

/-- The less significant byte of a word, stored at the higher address (R50). -/
def lowByte (w : Word) : Byte := w.extractLsb' 0 8

/-- The two bytes of an instruction as memory holds them (R50, R70). -/
def encodeBytes (i : Instr) : List Byte := [highByte (encode i), lowByte (encode i)]

/-- The 16-bit word whose low `nbits` bits are those of `w` and whose other bits are 0. -/
def tableWord (nbits w : Nat) : Word := BitVec.ofNat 16 (w % 2 ^ nbits)

/-- What the decoder reads from a word numbered as spec/opcode_table.json numbers it: bit 0 is the least
significant bit of the one 16-bit word, whose bytes are laid out big-endian (R50, R70). -/
def decodeTableWord (nbits w : Nat) : Option Instr :=
  match decodeBytes [highByte (tableWord nbits w), lowByte (tableWord nbits w)] with
  | .ok (i, _) => some i
  | .error _ => none

end Sys2Proof
end

