-- ==== Sys2Proof/Config.lean ====
section
/-! DEFINITION. The fixed parameters of the core (spec/00_scope.md R5), the parameter FONT_2_F with its
default (R6, R36) and the free environment inputs (R13, R14, R15), which have no body. -/

namespace Sys2Proof.Config

/-- Memory holds 4096 bytes, addresses 0x000 to 0xFFF (R5, R31). -/
def memorySize : Nat := 4096

/-- The reset value of PC, the entry point (R5, R23, R273). -/
def entryPoint : Word := 0x200

/-- The stack holds 16 return addresses (R5, R25). -/
def stackCapacity : Nat := 16

/-- The flag register VF (R22). -/
def flagReg : Reg := 0xF

/-- The glyphs of digits 0 and 1, which the source states (R36). -/
def font01 : List Byte :=
  [0xF0, 0x90, 0x90, 0x90, 0xF0,
   0x20, 0x60, 0x20, 0x20, 0x70]

/-- The default of the parameter FONT_2_F: the 70 bytes of glyphs 2 to F (R6, R36, D18).
PRESUMED: R36 marks the conventional table as general knowledge (log 4). Claims about `Reset` take
FONT_2_F as an argument instead of this value. Unsafe. -/
def font2F : Vector Byte 70 :=
  #v[0xF0, 0x10, 0xF0, 0x80, 0xF0,
     0xF0, 0x10, 0xF0, 0x10, 0xF0,
     0x90, 0x90, 0xF0, 0x10, 0x10,
     0xF0, 0x80, 0xF0, 0x10, 0xF0,
     0xF0, 0x80, 0xF0, 0x90, 0xF0,
     0xF0, 0x10, 0x20, 0x40, 0x40,
     0xF0, 0x90, 0xF0, 0x90, 0xF0,
     0xF0, 0x90, 0xF0, 0x10, 0xF0,
     0xF0, 0x90, 0xF0, 0x90, 0x90,
     0xE0, 0x90, 0xE0, 0x90, 0xE0,
     0xF0, 0x80, 0x80, 0x80, 0xF0,
     0xE0, 0x90, 0x90, 0x90, 0xE0,
     0xF0, 0x80, 0xF0, 0x80, 0xF0,
     0xF0, 0x80, 0xF0, 0x80, 0x80]

/-- The whole font table, 80 bytes at 0x000 to 0x04F, for a given FONT_2_F (R36). -/
def font (glyphs2F : Vector Byte 70) : List Byte := font01 ++ glyphs2F.toList

/-- The parameter TickSource (R6, R13, D8): whether a tick falls due at the n-th cycle whose sample the
state does not supply. Free: nothing constrains it (log 1). Safe. -/
opaque tickSource : Nat → Bool

/-- The parameter RandSource (R6, R14, D12): the n-th random byte the state does not supply.
Free: nothing constrains it (log 2). Safe. -/
opaque randSource : Nat → Byte

/-- The parameter KeySource (R6, R15, D11): the n-th sample of the input latch the state does not supply.
Free: nothing constrains it (log 3). Safe. -/
opaque keySource : Nat → Option Key

end Sys2Proof.Config
end

