-- ==== Sys2Proof/Machine/State.lean ====
section
/-! DEFINITION. The state of the core (spec/10_state.md R20 to R39), the faults it can be in
(spec/60_exceptions.md R230), what a step can refuse, and the state after reset
(spec/70_reset_and_hazards.md R271). -/

namespace Sys2Proof.Machine

/-- The four faults with the information each records (R230). FAULT holds one of them after a raise, and
`step` answers `.fault` with it for a core that is already Faulted (R37, R237; log 7). -/
inductive Fault where
  /-- Raised by the dispatch of a word that matches no executing row, FX55, FX65 and 0NNN included; records
  the word (R231). Safe: the spec names the fault. -/
  | unsupportedInstruction (w : Word)
  /-- Raised by a fetch, DXYN or FX33 that reaches an address of 4096 or more; records the address (R232).
  Safe: undefined in the source, a fault by D3. -/
  | memoryOutOfRange (a : Nat)
  /-- Raised by 2NNN when SP = 16; records SP (R233). Safe: undefined in the source, a fault by D4. -/
  | stackOverflow (sp : Nat)
  /-- Raised by 00EE when SP = 0; records SP (R234). Safe: undefined in the source, a fault by D4. -/
  | stackUnderflow (sp : Nat)
  deriving DecidableEq, Repr

/-- What the model gives no meaning. -/
inductive Refusal where
  /-- An instruction with no meaning yet, by its mnemonic; no arm of `exec` answers it. Safe. -/
  | notModelled (mnemonic : String)
  /-- Host operations that overlap in time, raised by `hostCall`: "the spec gives such use no meaning, and a
  model refuses it" (R246, R257, U5). Safe. -/
  | concurrentUse
  deriving DecidableEq, Repr

/-- SND, the sound output state (R33). -/
inductive Sound where
  | stopped
  | playing
  deriving DecidableEq, Repr

/-- The audio signals Start and Stop (R17, R243). -/
inductive AudioSignal where
  | start
  | stop
  deriving DecidableEq, Repr

/-- Memory as (address, byte) pairs in canonical form (`Memory.wf`, Machine/Ops.lean). -/
abbrev Memory := List Host.Cell

/-- The environment's inputs, the MODEL's own field and not state of the core (R13, R14, R15, R38). A list
holds samples supplied in advance, the next one first; when a list is empty the sample is the free value
of Config at the counter, which then advances (logs 1, 2, 3, 18). -/
structure Env where
  /-- Supplied `tick` samples, one per cycle that reaches step 3 (R13, R75). -/
  ticks : List Bool
  /-- Supplied `Key()` samples, one per EX9E, EXA1 or FX0A (R15). -/
  keys : List (Option Key)
  /-- Supplied `Rand()` bytes, one per CXNN (R14). -/
  rands : List Byte
  /-- Index of the next free tick. -/
  tickNo : Nat
  /-- Index of the next free key sample. -/
  keyNo : Nat
  /-- Index of the next free random byte. -/
  randNo : Nat
  deriving DecidableEq, Repr

end Sys2Proof.Machine

namespace Sys2Proof.Machine

/-- The complete state of the core (R39), with the model's own `signal` and `env`. -/
structure State where
  /-- V0 to VF (R20); VF is also the flag register (R22). -/
  v : Vector Byte 16
  /-- I, the index register (R27). -/
  i : Word
  /-- PC, the address of the next instruction to fetch (R23). -/
  pc : Word
  /-- S[0] to S[15], the return addresses (R25). -/
  stack : Vector Word 16
  /-- SP, the entries in use, 0 to 16 (R26). -/
  sp : Fin 17
  /-- DT, the delay timer (R28). -/
  dt : Byte
  /-- ST, the sound timer (R29). -/
  st : Byte
  /-- MEM (R31). -/
  mem : Memory
  /-- FB by rows: `fb[y][x]` is the cell at column x, row y (R32; log 20). -/
  fb : Vector (Vector Bool 64) 32
  /-- SND (R33). -/
  snd : Sound
  /-- FAULT (R37). -/
  fault : Option Fault
  /-- The MODEL's own: the audio signal the latest `Cycle()` emitted (R17, R243; log 9). -/
  signal : Option AudioSignal
  /-- The MODEL's own: the environment's inputs (logs 1, 2, 3, 18). -/
  env : Env
  deriving DecidableEq, Repr

/-- The environment of `State.reset`: nothing supplied, every sample free. DESIGN CHOICE (log 18). Safe. -/
def Env.initial : Env :=
  { ticks := [], keys := [], rands := [], tickNo := 0, keyNo := 0, randNo := 0 }

/-- The state after `Reset` (R271) of the all-zero image with the default font: `mem` lists nothing, so
every address reads as `Memory.unlisted` says (DESIGN CHOICE, log 5; the font, log 4). `resetWith`
(Machine/HostOps.lean) is `Reset(image)` for any image and FONT_2_F. -/
def State.reset : State :=
  { v := Vector.replicate 16 0
    i := 0
    pc := Config.entryPoint
    stack := Vector.replicate 16 0
    sp := 0
    dt := 0
    st := 0
    mem := []
    fb := Vector.replicate 32 (Vector.replicate 64 false)
    snd := .stopped
    fault := none
    signal := none
    env := Env.initial }

end Sys2Proof.Machine
end

