-- ==== Sys2Proof/Machine/Ops.lean ====
section
/-! DEFINITION. The named operations over the state: memory, registers, stack, framebuffer, environment
inputs, the timer tick, the fetch, and raising a fault (spec/00_scope.md R9 to R15). -/

namespace Sys2Proof.Machine

/-- The outcome type of a step of the core. -/
abbrev Outcome := Host.Outcome State Fault Refusal

/-! ### Memory -/

/-- What an address that memory does not list reads as: the font at 0x000 to 0x04F (R36, R271; its glyphs 2
to F are log 4), and 0 above it, the byte of the all-zero image (DESIGN CHOICE, log 5; the spec takes the
image as the caller's, R272, U19). Unsafe for claims that start from `State.reset`. -/
def Memory.unlisted (a : Nat) : Byte := (Config.font Config.font2F).getD a 0

/-- The canonical form: addresses strictly rising and inside memory, no entry equal to what its address
reads as unlisted. -/
abbrev Memory.wf (m : Memory) : Prop :=
  m.Pairwise (fun c d => c.1 < d.1) ∧
    ∀ c ∈ m, c.1 < Config.memorySize ∧ c.2 ≠ Memory.unlisted c.1

/-- `MEM[a]` (R9, R31). -/
def Memory.read : Memory → Nat → Byte
  | [], a => Memory.unlisted a
  | (b, v) :: m, a => if a = b then v else Memory.read m a

/-- The cell list with `a` put in front, unless `v` is what `a` reads as unlisted. -/
def Memory.consCell (a : Nat) (v : Byte) (m : Memory) : Memory :=
  if v = Memory.unlisted a then m else (a, v) :: m

/-- `MEM[a] <- v`, keeping the canonical form (R9, R31). -/
def Memory.write : Memory → Nat → Byte → Memory
  | [], a, v => Memory.consCell a v []
  | (b, w) :: m, a, v =>
    if a < b then Memory.consCell a v ((b, w) :: m)
    else if a = b then Memory.consCell a v m
    else (b, w) :: Memory.write m a v

/-- The memory that holds the given bytes from address `a` on and nothing else. -/
def Memory.load : Nat → List Byte → Memory
  | _, [] => []
  | a, v :: vs => Memory.consCell a v (Memory.load (a + 1) vs)

/-! ### Faults: taking one, and what follows -/

/-- Fault entry, the ONE place a fault is taken: it sets FAULT to the fault and its info, keeps every write
made before, saves nothing and moves no control (R11, R237). There is no return from a fault: "The only way
out of the Faulted state is a new `Reset`" (R238), which is `resetWith`. -/
def State.raise (f : Fault) (s : State) : State := { s with fault := some f }

/-- The fault of a word that does not execute (R78, R231). -/
def State.raiseUnsupported (w : Word) (s : State) : State :=
  s.raise (.unsupportedInstruction w)

/-- The spec's own numeric codes (R230, D25). -/
def Fault.code : Fault → Nat
  | .unsupportedInstruction _ => 1
  | .memoryOutOfRange _ => 2
  | .stackOverflow _ => 3
  | .stackUnderflow _ => 4

/-- The rest of a rule's statements after one that may raise: the value and the state it left, or the state
at the raise, after which nothing of the cycle happens (R9, R11). -/
inductive Flow (α : Type) where
  | ok (a : α) (s : State)
  | raised (s : State)

/-- The next statement of a rule runs unless one before it raised (R11). -/
def Flow.bind {α β : Type} (x : Flow α) (f : α → State → Flow β) : Flow β :=
  match x with
  | .ok a s => f a s
  | .raised s => .raised s

/-- The state a rule ends in, by a raise or not. -/
def Flow.state {α : Type} : Flow α → State
  | .ok _ s => s
  | .raised s => s

/-- An instruction's outcome: the state it ends in is the next state, FAULT set if it raised (R237; log 7). -/
def Flow.outcome (x : Flow Unit) : Outcome := .next x.state

/-! ### Memory primitives -/

/-- `MemRead(a, 1)` (R10, R58). -/
def memRead (a : Nat) (s : State) : Flow Byte :=
  if a < Config.memorySize then .ok (s.mem.read a) s
  else .raised (s.raise (.memoryOutOfRange a))

/-- `MEM[a] <- v` on the state (R9). -/
def State.store (a : Nat) (v : Byte) (s : State) : State := { s with mem := s.mem.write a v }

/-- `MemWrite(a, 1, v)` (R10, R58). -/
def memWrite (a : Nat) (v : Byte) (s : State) : Flow Unit :=
  if a < Config.memorySize then .ok () (s.store a v)
  else .raised (s.raise (.memoryOutOfRange a))

/-! ### Registers -/

/-- `V[x]` (R9, R20). -/
def State.V (s : State) (x : Reg) : Byte := s.v[x]

/-- `V[x] <- b` (R9, R20, R21). -/
def State.setV (x : Reg) (b : Byte) (s : State) : State := { s with v := s.v.set x b }

/-- `V[F] <- b` (R22). -/
def State.setVF (b : Byte) (s : State) : State := s.setV Config.flagReg b

/-- `I <- a` (R9, R27). -/
def State.setI (a : Word) (s : State) : State := { s with i := a }

/-- `PC <- a` (R9, R23). -/
def State.setPC (a : Word) (s : State) : State := { s with pc := a }

/-- `DT <- b` (R9, R28). -/
def State.setDT (b : Byte) (s : State) : State := { s with dt := b }

/-- `ST <- b` (R9, R29). -/
def State.setST (b : Byte) (s : State) : State := { s with st := b }

/-- A skip: `PC <- PC + 2` when the condition holds (R103, glossary "skip"). -/
def State.skipIf (c : Bool) (s : State) : State :=
  { s with pc := bif c then s.pc + 2 else s.pc }

/-! ### Stack -/

/-- `S[k]` (R9, R25). -/
def State.S (s : State) (k : Fin 16) : Word := s.stack[k]

/-- `Push(a)` (R12). -/
def push (a : Word) (s : State) : Flow Unit :=
  if h : s.sp.val < Config.stackCapacity then
    .ok () { s with
      stack := s.stack.set s.sp.val a h
      sp := ⟨s.sp.val + 1, Nat.succ_lt_succ h⟩ }
  else .raised (s.raise (.stackOverflow s.sp.val))

/-- `Pop()`: SP is decremented first and the entry it then names is returned, not cleared (R12, D5, C11). -/
def pop (s : State) : Flow Word :=
  match s.sp with
  | ⟨0, _⟩ => .raised (s.raise (.stackUnderflow 0))
  | ⟨k + 1, h⟩ =>
    .ok (s.stack[k]'(Nat.lt_of_succ_lt_succ h)) { s with sp := ⟨k, Nat.lt_of_succ_lt h⟩ }

/-! ### Framebuffer -/

/-- `FB[x, y]` (R9, R32). -/
def State.cell (s : State) (x : Fin 64) (y : Fin 32) : Bool := s.fb[y][x]

/-- `FB[x, y] <- b` (R9, R32). -/
def State.setCell (x : Fin 64) (y : Fin 32) (b : Bool) (s : State) : State :=
  { s with fb := s.fb.set y (s.fb[y].set x b) }

/-- Every cell to 0 (R190, R255). -/
def State.clearCells (s : State) : State :=
  { s with fb := Vector.replicate 32 (Vector.replicate 64 false) }

/-- Column `(x0 + b) mod 64` (R191). -/
def columnAt (x0 : Fin 64) (b : Nat) : Fin 64 := Fin.ofNat 64 (x0.val + b)

/-- The cell at bit place `b` of a destination row, as the bit it contributes: `FB << (7 - b)` (R191). -/
def rowBit (x0 : Fin 64) (y : Fin 32) (s : State) (b : Nat) : Byte :=
  bif s.cell (columnAt x0 b) y then 1#8 <<< (7 - b) else 0

/-- `ReadRow(x0, y)`: eight cells as a byte, the most significant bit the leftmost pixel (R191). -/
def readRow (x0 : Fin 64) (y : Fin 32) (s : State) : Byte :=
  (List.range 8).foldl (fun r b => r + rowBit x0 y s b) 0

/-- `WriteRow(x0, y, r)`: cell b takes `(r >> (7 - b)) AND 1`, for b from 0 to 7 (R191). -/
def writeRow (x0 : Fin 64) (y : Fin 32) (r : Byte) (s : State) : State :=
  (List.range 8).foldl (fun s b => s.setCell (columnAt x0 b) y (r.getLsbD (7 - b))) s

/-! ### Environment inputs -/

/-- The next `tick` sample: a supplied one, else free (R13, D8; log 1). -/
def Env.tick (e : Env) : Bool :=
  match e.ticks with
  | t :: _ => t
  | [] => Config.tickSource e.tickNo

/-- The environment once that tick is sampled. -/
def Env.afterTick (e : Env) : Env :=
  match e.ticks with
  | _ :: ts => { e with ticks := ts }
  | [] => { e with tickNo := e.tickNo + 1 }

/-- The next value of `Key()`: a supplied sample, else free (R15, D11; log 3). -/
def Env.key (e : Env) : Option Key :=
  match e.keys with
  | k :: _ => k
  | [] => Config.keySource e.keyNo

/-- The environment once that key is sampled. -/
def Env.afterKey (e : Env) : Env :=
  match e.keys with
  | _ :: ks => { e with keys := ks }
  | [] => { e with keyNo := e.keyNo + 1 }

/-- The next byte of `Rand()`: a supplied one, else free (R14, D12; log 2). -/
def Env.rand (e : Env) : Byte :=
  match e.rands with
  | r :: _ => r
  | [] => Config.randSource e.randNo

/-- The environment once that byte is drawn. -/
def Env.afterRand (e : Env) : Env :=
  match e.rands with
  | _ :: rs => { e with rands := rs }
  | [] => { e with randNo := e.randNo + 1 }

/-- `Key()` has been called: the sample is used up (R15). -/
def State.afterKey (s : State) : State := { s with env := s.env.afterKey }

/-- `Rand()` has been called: the byte is used up (R14). -/
def State.afterRand (s : State) : State := { s with env := s.env.afterRand }

/-! ### Timer tick -/

/-- A timer counts down to 0 and stays there (R240, R241, R242). -/
def countDown (t : Byte) : Byte := if 0 < t then t - 1 else t

/-- The sound output a tick asks for, judged before ST is decremented (R240, R242, D9). -/
def soundFor (st : Byte) : Sound := if 0 < st then .playing else .stopped

/-- The signal of a tick that moves SND from `old` to `new` (R240, R243). -/
def audioEdge (old new : Sound) : Option AudioSignal :=
  if new = old then none
  else match new with
    | .playing => some .start
    | .stopped => some .stop

/-- `TimerTick()` (R240). -/
def timerTick (s : State) : State :=
  { s with
    dt := countDown s.dt
    st := countDown s.st
    snd := soundFor s.st
    signal := audioEdge s.snd (soundFor s.st) }

/-- Step 3 of the cycle: sample `tick` and run `TimerTick()` when it is true (R72, R75). Written field by
field so that the rest of the state does not depend on the sample. -/
def tickStage (s : State) : State :=
  { s with
    env := s.env.afterTick
    dt := bif s.env.tick then (timerTick s).dt else s.dt
    st := bif s.env.tick then (timerTick s).st else s.st
    snd := bif s.env.tick then (timerTick s).snd else s.snd
    signal := bif s.env.tick then (timerTick s).signal else s.signal }

/-! ### Steps 1 and 2 of the cycle -/

/-- A cycle starts with no audio signal emitted (R17, R243; log 9). -/
def beginCycle (s : State) : State := { s with signal := none }

/-- Step 1, fetch: MEM[PC], then MEM[PC + 1], big-endian (R50, R72, R73). -/
def fetch (s : State) : Flow Word :=
  (memRead s.pc.toNat s).bind fun hi s =>
    (memRead (s.pc.toNat + 1) s).bind fun lo s => .ok (wordOfBytes hi lo) s

/-- Step 2, advance: `PC <- PC + 2` (R72, R74). -/
def advance (s : State) : State := { s with pc := s.pc + 2 }

/-- The word stored at `a` and `a + 1`, big-endian, where those addresses are inside memory. -/
def storeWord (a : Nat) (w : Word) (m : Memory) : Memory :=
  if a + 1 < Config.memorySize then (m.write a (highByte w)).write (a + 1) (lowByte w) else m

end Sys2Proof.Machine
end

