-- ==== Sys2Proof/Machine/Operands.lean ====
section
/-! DEFINITION. Operand forms and computed values of the instructions (spec/30_encoding.md R71): zero-extended
addresses, index-relative addresses, glyph addresses, decimal digits, sprite coordinates, key tests. -/

namespace Sys2Proof.Machine

/-- `zext_16(NNN)` (R8, R71). -/
def zextAddr (nnn : Addr) : Word := nnn.setWidth 16

/-- `V[r]` as a 16-bit addend (R8, R107, R171). -/
def zextByte (b : Byte) : Word := b.setWidth 16

/-- The address `I + k` of byte k of a DXYN or FX33 access, at full width (R53, R59). -/
def indexAddr (s : State) (k : Nat) : Nat := s.i.toNat + k

/-- `V[X] * 5`, 0 to 1275, not reduced to the low nibble (R56, R172). -/
def glyphAddr (b : Byte) : Word := BitVec.ofNat 16 (b.toNat * 5)

/-- `v div 100` (R173). -/
def hundreds (v : Byte) : Byte := BitVec.ofNat 8 (v.toNat / 100)

/-- `(v div 10) mod 10` (R173). -/
def tens (v : Byte) : Byte := BitVec.ofNat 8 (v.toNat / 10 % 10)

/-- `v mod 10` (R173). -/
def ones (v : Byte) : Byte := BitVec.ofNat 8 (v.toNat % 10)

/-- `V[X] mod 64`, a sprite's column (R192). -/
def spriteColumn (b : Byte) : Fin 64 := Fin.ofNat 64 b.toNat

/-- `(V[Y] + i) mod 32`, the row of a sprite's row i (R192). -/
def spriteRow (b : Byte) (i : Nat) : Fin 32 := Fin.ofNat 32 (b.toNat + i)

/-- `k != none and k == V[X]` (R210). -/
def keyIs (k : Option Key) (b : Byte) : Bool :=
  match k with
  | some c => c.val == b.toNat
  | none => false

/-- A key code as a register value (R213). -/
def keyByte (c : Key) : Byte := BitVec.ofNat 8 c.val

end Sys2Proof.Machine
end

