-- ==== Sys2Proof/Machine/Flags.lean ====
section
/-! DEFINITION. The values VF takes as a flag (spec/10_state.md R22, spec/41_alu.md R130,
spec/43_graphics.md R192). -/

namespace Sys2Proof.Machine

/-- A flag as a register value: 1 or 0. -/
def flagByte (c : Bool) : Byte := bif c then 1 else 0

/-- 8XY4: the unmasked sum exceeds 255 (R130, R137). -/
def carryOut (a b : Byte) : Bool := decide (a.toNat + b.toNat > 255)

/-- 8XY5, 8XY7: no borrow, that is NOT minuend < subtrahend (R130, R138, R140). -/
def notBorrow (minuend subtrahend : Byte) : Bool := !decide (minuend.toNat < subtrahend.toNat)

/-- 8XY6: `V[X] AND 1`, the bit shifted out at the right (R139). -/
def shiftedOutRight (a : Byte) : Byte := a &&& 1

/-- 8XYE: `(V[X] >> 7) AND 1`, the bit shifted out at the left (R141). -/
def shiftedOutLeft (a : Byte) : Byte := (a >>> 7) &&& 1

/-- DXYN: `(s AND row) != 0`, a set pixel is cleared (R192). -/
def collides (sprite row : Byte) : Bool := sprite &&& row != 0

end Sys2Proof.Machine
end

