-- ==== Sys2Proof/Machine/Alu.lean ====
section
/-! DEFINITION. Register loads and arithmetic-logic: 6XNN, 7XNN, 8XY0 to 8XY7, 8XYE, CXNN
(spec/41_alu.md). Statements run in the order of each rule's pseudocode (R9). -/

namespace Sys2Proof.Machine

/-- The result into V[X], then the flag into VF: the order of 8XY4, 8XY5 and 8XY7 (R137, R138, R140). -/
def resultThenFlag (x : Reg) (r : Byte) (c : Bool) (s : State) : State :=
  (s.setV x r).setVF (flagByte c)

/-- R131: `V[X] <- NN`. -/
def exec6XNN (x : Reg) (nn : Byte) (s : State) : Outcome := .next (s.setV x nn)

/-- R132: `V[X] <- (V[X] + NN) mod 256`. -/
def exec7XNN (x : Reg) (nn : Byte) (s : State) : Outcome := .next (s.setV x (s.V x + nn))

/-- R133: `V[X] <- V[Y]`. -/
def exec8XY0 (x y : Reg) (s : State) : Outcome := .next (s.setV x (s.V y))

/-- R134: `V[X] <- V[X] OR V[Y]`. -/
def exec8XY1 (x y : Reg) (s : State) : Outcome := .next (s.setV x (s.V x ||| s.V y))

/-- R135: `V[X] <- V[X] AND V[Y]`. -/
def exec8XY2 (x y : Reg) (s : State) : Outcome := .next (s.setV x (s.V x &&& s.V y))

/-- R136: `V[X] <- V[X] XOR V[Y]`. -/
def exec8XY3 (x y : Reg) (s : State) : Outcome := .next (s.setV x (s.V x ^^^ s.V y))

/-- R137: the sum modulo 256 into V[X], then VF = 1 if the exact sum exceeds 255, else 0. -/
def exec8XY4 (x y : Reg) (s : State) : Outcome :=
  .next (resultThenFlag x (s.V x + s.V y) (carryOut (s.V x) (s.V y)) s)

/-- R138: `V[X] - V[Y]` modulo 256 into V[X], then VF = NOT borrow. -/
def exec8XY5 (x y : Reg) (s : State) : Outcome :=
  .next (resultThenFlag x (s.V x - s.V y) (notBorrow (s.V x) (s.V y)) s)

/-- R139: `V[F] <- V[X] AND 1`, then `V[X] <- V[X] >> 1` of the V[X] that is there then (D14). Y is not
used (R80). -/
def exec8XY6 (x _y : Reg) (s : State) : Outcome :=
  let s := s.setVF (shiftedOutRight (s.V x))
  .next (s.setV x (s.V x >>> 1))

/-- R140: `V[Y] - V[X]` modulo 256 into V[X], then VF = NOT borrow. -/
def exec8XY7 (x y : Reg) (s : State) : Outcome :=
  .next (resultThenFlag x (s.V y - s.V x) (notBorrow (s.V y) (s.V x)) s)

/-- R141: `V[F] <- (V[X] >> 7) AND 1`, then `V[X] <- (V[X] << 1) mod 256` of the V[X] that is there then
(D14). Y is not used (R80). -/
def exec8XYE (x _y : Reg) (s : State) : Outcome :=
  let s := s.setVF (shiftedOutLeft (s.V x))
  .next (s.setV x (s.V x <<< 1))

/-- R142: `V[X] <- Rand() AND NN`, one draw (R14). -/
def execCXNN (x : Reg) (nn : Byte) (s : State) : Outcome :=
  .next (s.afterRand.setV x (s.env.rand &&& nn))

end Sys2Proof.Machine
end

