-- ==== Sys2Proof/Machine/Control.lean ====
section
/-! DEFINITION. Control flow: 00EE, 1NNN, 2NNN, 3XNN, 4XNN, 5XY0, 9XY0, BNNN (spec/40_control_flow.md). PC
already holds the instruction's address plus 2 when a meaning runs (R74). -/

namespace Sys2Proof.Machine

/-- R100: `PC <- Pop()`. -/
def exec00EE (s : State) : Outcome :=
  ((pop s).bind fun a s => .ok () (s.setPC a)).outcome

/-- R101: `PC <- zext_16(NNN)`. -/
def exec1NNN (nnn : Addr) (s : State) : Outcome := .next (s.setPC (zextAddr nnn))

/-- R102: `Push(PC)`, then `PC <- zext_16(NNN)`. -/
def exec2NNN (nnn : Addr) (s : State) : Outcome :=
  ((push s.pc s).bind fun _ s => .ok () (s.setPC (zextAddr nnn))).outcome

/-- R103: `if V[X] == NN then PC <- PC + 2`. -/
def exec3XNN (x : Reg) (nn : Byte) (s : State) : Outcome := .next (s.skipIf (s.V x == nn))

/-- R104: `if V[X] != NN then PC <- PC + 2`. -/
def exec4XNN (x : Reg) (nn : Byte) (s : State) : Outcome := .next (s.skipIf (s.V x != nn))

/-- R105: `if V[X] == V[Y] then PC <- PC + 2`. -/
def exec5XY0 (x y : Reg) (s : State) : Outcome := .next (s.skipIf (s.V x == s.V y))

/-- R106: `if V[X] != V[Y] then PC <- PC + 2`. -/
def exec9XY0 (x y : Reg) (s : State) : Outcome := .next (s.skipIf (s.V x != s.V y))

/-- R107: `PC <- NNN + V[0]`, the full-width sum. -/
def execBNNN (nnn : Addr) (s : State) : Outcome :=
  .next (s.setPC (zextAddr nnn + zextByte (s.V 0)))

end Sys2Proof.Machine
end

