-- ==== Sys2Proof/Machine/Graphics.lean ====
section
/-! DEFINITION. Graphics: 00E0 and DXYN (spec/43_graphics.md). -/

namespace Sys2Proof.Machine

/-- R190: every cell to 0; VF is not written. -/
def exec00E0 (s : State) : Outcome := .next s.clearCells

/-- One row of DXYN once its sprite byte is read: the coordinates are read now, VF is set on a collision,
the row is XORed back (R192, D13). -/
def drawRow (x y : Reg) (i : Nat) (sprite : Byte) (s : State) : State :=
  let x0 := spriteColumn (s.V x)
  let y0 := spriteRow (s.V y) i
  let row := readRow x0 y0 s
  let s := bif collides sprite row then s.setVF 1 else s
  writeRow x0 y0 (row ^^^ sprite) s

/-- `n` rows of DXYN from row `i` on; a sprite byte past memory raises and keeps the rows before it
(R192, D15). -/
def drawRows (x y : Reg) : Nat → Nat → State → Flow Unit
  | 0, _, s => .ok () s
  | n + 1, i, s =>
    (memRead (indexAddr s i) s).bind fun sprite s => drawRows x y n (i + 1) (drawRow x y i sprite s)

/-- R192: `V[F] <- 0`, then rows 0 to N - 1. -/
def execDXYN (x y : Reg) (n : Fin 16) (s : State) : Outcome :=
  (drawRows x y n.val 0 (s.setVF 0)).outcome

end Sys2Proof.Machine
end

