-- ==== Sys2Proof/Machine/IndexMemory.lean ====
section
/-! DEFINITION. Index register and memory: ANNN, FX1E, FX29, FX33 (spec/42_index_memory.md). -/

namespace Sys2Proof.Machine

/-- R170: `I <- zext_16(NNN)`. -/
def execANNN (nnn : Addr) (s : State) : Outcome := .next (s.setI (zextAddr nnn))

/-- R171: `I <- (I + V[X]) mod 65536`; VF is not written. -/
def execFX1E (x : Reg) (s : State) : Outcome := .next (s.setI (s.i + zextByte (s.V x)))

/-- R172: `I <- V[X] * 5`. -/
def execFX29 (x : Reg) (s : State) : Outcome := .next (s.setI (glyphAddr (s.V x)))

/-- R173: the decimal digits of V[X] to I, I + 1, I + 2, hundreds first; a write past memory raises and
keeps the writes before it (D15). -/
def execFX33 (x : Reg) (s : State) : Outcome :=
  ((memWrite (indexAddr s 0) (hundreds (s.V x)) s).bind fun _ s =>
    (memWrite (indexAddr s 1) (tens (s.V x)) s).bind fun _ s =>
      memWrite (indexAddr s 2) (ones (s.V x)) s).outcome

end Sys2Proof.Machine
end

