-- ==== Sys2Proof/Machine/InputTimers.lean ====
section
/-! DEFINITION. Key input and timers: EX9E, EXA1, FX07, FX0A, FX15, FX18 (spec/44_input_timers.md). `Key()` is
sampled once per instruction (R15, D11). -/

namespace Sys2Proof.Machine

/-- R210: `if k != none and k == V[X] then PC <- PC + 2`. -/
def execEX9E (x : Reg) (s : State) : Outcome :=
  .next (s.afterKey.skipIf (keyIs s.env.key (s.V x)))

/-- R211: `if k == none or k != V[X] then PC <- PC + 2`. -/
def execEXA1 (x : Reg) (s : State) : Outcome :=
  .next (s.afterKey.skipIf (!keyIs s.env.key (s.V x)))

/-- R212: `V[X] <- DT`. -/
def execFX07 (x : Reg) (s : State) : Outcome := .next (s.setV x s.dt)

/-- R213: with no key `PC <- PC - 2`, back to the instruction itself; else `V[X] <- k`. -/
def execFX0A (x : Reg) (s : State) : Outcome :=
  .next (match s.env.key with
    | none => s.afterKey.setPC (s.pc - 2)
    | some k => s.afterKey.setV x (keyByte k))

/-- R214: `DT <- V[X]`. -/
def execFX15 (x : Reg) (s : State) : Outcome := .next (s.setDT (s.V x))

/-- R215: `ST <- V[X]`; the audio output changes only at a tick (R242). -/
def execFX18 (x : Reg) (s : State) : Outcome := .next (s.setST (s.V x))

end Sys2Proof.Machine
end

