-- ==== Sys2Proof/Machine/Unsupported.lean ====
section
/-! DEFINITION. The named unsupported words FX55 and FX65 (spec/42_index_memory.md R174, R175) and 0NNN
(spec/30_encoding.md R79): each takes the fault UnsupportedInstruction(w), w the whole word (R231), and
changes nothing else. -/

namespace Sys2Proof.Machine

/-- R174: `raise UnsupportedInstruction(w)`. -/
def execFX55 (x : Reg) (s : State) : Outcome := .next (s.raiseUnsupported (encode (.opFX55 x)))

/-- R175: `raise UnsupportedInstruction(w)`. -/
def execFX65 (x : Reg) (s : State) : Outcome := .next (s.raiseUnsupported (encode (.opFX65 x)))

/-- R79: `raise UnsupportedInstruction(w)`. -/
def exec0NNN (nnn : Addr) (s : State) : Outcome := .next (s.raiseUnsupported (encode (.op0NNN nnn)))

end Sys2Proof.Machine
end

