-- ==== Sys2Proof/Machine/Cycle.lean ====
section
/-! DEFINITION. `Dispatch(w)` and `Cycle()` (spec/30_encoding.md R72 to R78). -/

namespace Sys2Proof.Machine

/-- `Dispatch(w)`: decode and execute; a word of no row raises UnsupportedInstruction(w) and has no other
effect (R76, R78). -/
def dispatchWord (w : Word) (s : State) : Outcome :=
  match decode w with
  | .ok i => exec i s
  | .error _ => .next (s.raiseUnsupported w)

/-- Steps 1 to 4 of a cycle: fetch, advance, timer tick, dispatch; a fetch that raises ends the cycle
(R72 to R75). -/
def runCycle (s : State) : Outcome :=
  match fetch s with
  | .ok w s => dispatchWord w (tickStage (advance s))
  | .raised s => .next s

/-- `Cycle()`: no step at all while FAULT is set (R72, R237; log 7), else one fetch-decode-execute step. -/
def cycle (s : State) : Outcome :=
  match s.fault with
  | some f => .fault f
  | none => runCycle (beginCycle s)

end Sys2Proof.Machine
end

