-- ==== Sys2Proof/Machine/Step.lean ====
section
/-! DEFINITION. One step of the machine is one `Cycle()` (spec/30_encoding.md R72, spec/70_reset_and_hazards.md
R281); and the placing of an instruction word where the next cycle fetches it. -/

namespace Sys2Proof.Machine

/-- One step: `Cycle()` (R72). -/
def step (s : State) : Host.Outcome State Fault Refusal := cycle s

/-- `s` with a word stored at PC and PC + 1, as the loader places a program before `Reset` (R275; log 6). -/
def State.withFetchWord (s : State) (nbits w : Nat) : State :=
  { s with mem := storeWord s.pc.toNat (tableWord nbits w) s.mem }

end Sys2Proof.Machine
end

