-- ==== Sys2Proof/Machine/HostOps.lean ====
section
/-! DEFINITION. The host's operations on the core (spec/00_scope.md R16): `Reset(image)`, `Execute(w)`,
`ClearFramebuffer()`, the read accessors, the contract of the input latch, and the refusal of overlapping
calls (spec/60_exceptions.md R246 to R257). -/

namespace Sys2Proof.Machine

/-- The errors of the host interface, which leave the core's state unchanged (R235). -/
inductive HostError where
  /-- `Reset(image)` with an image that is not exactly 4096 bytes (R270). -/
  | invalidMemorySize
  /-- `getRegister(i)` with i outside 0 to 0xF (R253). -/
  | invalidRegisterIndex
  /-- `press(k)` with k neither none nor 0 to 15 (R250). -/
  | invalidKeyCode
  deriving DecidableEq, Repr

/-- The image with the font over its low 80 bytes (R271, R272). -/
def overlayFont (font2F : Vector Byte 70) (image : List Byte) : List Byte :=
  Config.font font2F ++ image.drop 80

/-- `Reset(image)` (R270, R271) for a given FONT_2_F (R6, R36) and the collaborators' inputs it is bound to
(R270; log 17). -/
def resetWith (font2F : Vector Byte 70) (env : Env) (image : List Byte) : Except HostError State :=
  if image.length = Config.memorySize then
    .ok { State.reset with mem := Memory.load 0 (overlayFont font2F image), env := env }
  else .error .invalidMemorySize

/-- `Execute(w)`: `Dispatch(w)` with no fetch, advance or tick; no step while FAULT is set (R254, D16). -/
def execute (w : Word) (s : State) : Outcome :=
  match s.fault with
  | some f => .fault f
  | none => dispatchWord w s

/-- `ClearFramebuffer()`: every cell to 0, nothing else, in the Faulted state too (R255, D17). -/
def clearFramebuffer (s : State) : State := s.clearCells

/-- `getRegister(i)` (R253). -/
def getRegister (i : Nat) (s : State) : Except HostError Byte :=
  if h : i < 16 then .ok (s.V ⟨i, h⟩) else .error .invalidRegisterIndex

/-- `getIndexRegister()` (R253). -/
def getIndexRegister (s : State) : Word := s.i

/-- `getProgramCounter()` (R253). -/
def getProgramCounter (s : State) : Word := s.pc

/-- `getDelayTimer()` (R253). -/
def getDelayTimer (s : State) : Byte := s.dt

/-- `getMemory()`: the 4096 bytes in address order (R253). -/
def getMemory (s : State) : List Byte := (List.range Config.memorySize).map s.mem.read

/-- `getFramebuffer()`: the 2048 cells in the order `x + y*64` (R253, R32). -/
def getFramebuffer (s : State) : List Bool := (s.fb.toList.map Vector.toList).flatten

/-- The status of the latest operation: `none` for ok, else the fault (R17, R237). -/
def status (s : State) : Option Fault := s.fault

/-! ### The input latch, a collaborator that is not state of the core (R38, R250; log 15) -/

/-- The latch's one slot: a key code or none (R250). -/
abbrev Latch := Option Key

/-- `read()` (R250). -/
def Latch.read (l : Latch) : Option Key := l

/-- `press(k)`: a key code 0 to 15, or none; a code outside fails (R250). -/
def Latch.press (k : Option Nat) (_l : Latch) : Except HostError Latch :=
  match k with
  | none => .ok none
  | some c => if h : c < 16 then .ok (some ⟨c, h⟩) else .error .invalidKeyCode

/-- `release()`: `press(none)` (R250). -/
def Latch.release (l : Latch) : Except HostError Latch := l.press none

/-- What the latch holds after a `press`: a failed one leaves it as it was (R250, D23). -/
def Latch.afterPress (k : Option Nat) (l : Latch) : Latch :=
  match l.press k with
  | .ok l' => l'
  | .error _ => l

/-! ### Calls of the host -/

/-- The operations that change an existing machine (R16). -/
inductive HostOp where
  | cycle
  | execute (w : Word)
  | clearFramebuffer
  deriving DecidableEq, Repr

/-- One operation, atomic with respect to every other (R16, R54). -/
def hostOp (op : HostOp) (s : State) : Outcome :=
  match op with
  | .cycle => step s
  | .execute w => execute w s
  | .clearFramebuffer => .next (clearFramebuffer s)

/-- The operations in progress at one time: none or one has its meaning; two or more overlap, which the
model refuses (R246, R257, U5; log 11). -/
def hostCall (ops : List HostOp) (s : State) : Outcome :=
  match ops with
  | [] => .next s
  | [op] => hostOp op s
  | _ :: _ :: _ => .refused .concurrentUse

end Sys2Proof.Machine
end

