-- ==== Sys2Proof/Safety.lean ====
section
/-! DEFINITION. The terms claims use: the parts of the state and what a change leaves alone, which faults are
well formed, the invariant that every cycle keeps, and the pixels of a sprite. -/

namespace Sys2Proof

/-- The instruction executes: it is not FX55, FX65 or 0NNN (R2, R174, R175, R79; spec/opcode_table.json,
"executes"). -/
def Instr.executes : Instr → Bool
  | .opFX55 _ | .opFX65 _ | .op0NNN _ => false
  | .op00E0 | .op00EE | .op1NNN _ | .op2NNN _ | .op3XNN _ _ | .op4XNN _ _ | .op5XY0 _ _
  | .op6XNN _ _ | .op7XNN _ _ | .op8XY0 _ _ | .op8XY1 _ _ | .op8XY2 _ _ | .op8XY3 _ _
  | .op8XY4 _ _ | .op8XY5 _ _ | .op8XY6 _ _ | .op8XY7 _ _ | .op8XYE _ _ | .op9XY0 _ _
  | .opANNN _ | .opBNNN _ | .opCXNN _ _ | .opDXYN _ _ _ | .opEX9E _ | .opEXA1 _ | .opFX07 _
  | .opFX0A _ | .opFX15 _ | .opFX18 _ | .opFX1E _ | .opFX29 _ | .opFX33 _ => true

/-- Every word with these fixed digits decodes to the instruction built from its fields (R76, R77). -/
def Encodes (mask bits : Word) (build : Word → Instr) : Prop :=
  ∀ w : Word, w &&& mask = bits → decode w = .ok (build w)

end Sys2Proof

namespace Sys2Proof.Machine

/-- The parts of the state (R39), and the model's own two. -/
inductive Part where
  | regs
  | index
  | pc
  | stack
  | sp
  | delay
  | soundTimer
  | memory
  | screen
  | sound
  | fault
  | signal
  | inputs
  deriving DecidableEq, Repr

/-- A part reads the same in both states; memory and the screen are compared byte by byte and cell by
cell. -/
def Part.same (s t : State) : Part → Prop
  | .regs => ∀ r, t.V r = s.V r
  | .index => t.i = s.i
  | .pc => t.pc = s.pc
  | .stack => ∀ k, t.S k = s.S k
  | .sp => t.sp = s.sp
  | .delay => t.dt = s.dt
  | .soundTimer => t.st = s.st
  | .memory => ∀ a, t.mem.read a = s.mem.read a
  | .screen => ∀ x y, t.cell x y = s.cell x y
  | .sound => t.snd = s.snd
  | .fault => t.fault = s.fault
  | .signal => t.signal = s.signal
  | .inputs => t.env = s.env

/-- Every part but the listed ones is unchanged from `s` to `t`. -/
def ChangesOnly (ps : List Part) (s t : State) : Prop := ∀ p, p ∉ ps → p.same s t

/-- Every general register but the listed ones is unchanged from `s` to `t`. -/
def RegsExcept (rs : List Reg) (s t : State) : Prop := ∀ r, r ∉ rs → t.V r = s.V r

/-- The fault's info is one its rule allows: a word that does not execute (R231), an address outside memory
(R232), SP = 16 (R233), SP = 0 (R234). -/
def Fault.wf : Fault → Prop
  | .unsupportedInstruction w => ∀ i, decode w = .ok i → i.executes = false
  | .memoryOutOfRange a => Config.memorySize ≤ a
  | .stackOverflow sp => sp = Config.stackCapacity
  | .stackUnderflow sp => sp = 0

/-- The invariant that every cycle keeps: memory canonical; every PC value below 0x10FF and every return
address at most 0x1000 (R24); FAULT's info well formed (R230); an emitted signal agrees with SND (R243). -/
structure State.Inv (s : State) : Prop where
  mem : s.mem.wf
  pc : s.pc.toNat < 0x10FF
  stack : ∀ k, (s.S k).toNat ≤ 0x1000
  fault : ∀ f, s.fault = some f → f.wf
  signal : ∀ g, s.signal = some g → (g = .start ↔ s.snd = .playing)

/-- The core may take a cycle (R37, R72). -/
def State.Running (s : State) : Prop := s.fault = none

/-- A run of k cycles from `s` that takes no fault (R258). -/
def RunsSafely (k : Nat) (s : State) : Prop :=
  ∃ t, Host.Core.run core k s = .next t ∧ t.fault = none

/-- Row `i` of a sprite whose top-left pixel is at (x0, y0) has a set bit on the cell (cx, cy): columns wrap
at 64, rows at 32, the most significant bit is the leftmost pixel (R191, R192). -/
def rowPixel (x0 y0 i : Nat) (sprite : Byte) (cx : Fin 64) (cy : Fin 32) : Bool :=
  decide (cy.val = (y0 + i) % 32) &&
    (List.range 8).any fun b => decide (cx.val = (x0 + b) % 64) && sprite.getLsbD (7 - b)

/-- The sprite of `n` rows at address I has a set bit on the cell (cx, cy) when drawn at (x0, y0) (R192). -/
def spritePixel (s : State) (x0 y0 n : Nat) (cx : Fin 64) (cy : Fin 32) : Bool :=
  (List.range n).any fun i => rowPixel x0 y0 i (s.mem.read (s.i.toNat + i)) cx cy

end Sys2Proof.Machine
end

