-- ==== Sys2Proof/Certificates/Slice0/Obligations.lean ====
section
/-! DEFINITION. The statements for the provers. Each docstring names the rule of spec/ it formalises; where a
rule rests on a decision D<n> of spec/92_eei_decisions.md, or on the model's own fields `signal` and `env`,
the docstring says so. -/

open Sys2Proof Sys2Proof.Machine

/-! ### Encoding -/

/-- Words written out from the encodings of R77 and the worked example of R83 decode to the instructions they
stand for; 0x01E0 is 0NNN, a row of spec/opcode_table.json and not of R77 (R79; its constructor is log 13).
That a word differing from a pattern in a fixed digit is unsupported, as 0x5121 is, is strict decode, the
spec's decision D2, which the model takes as it stands (R76; log 14). -/
def Obligations.DecoderReadsSpecWords : Prop :=
  decode 0x8AB4 = .ok (.op8XY4 0xA 0xB) ∧ decode 0x8AB8 = .error (.unsupported 0x8AB8) ∧
  decode 0xF355 = .ok (.opFX55 3) ∧ decode 0x00E0 = .ok .op00E0 ∧
  decode 0x01E0 = .ok (.op0NNN 0x1E0) ∧ decode 0x2ABC = .ok (.op2NNN 0xABC) ∧
  decode 0xD125 = .ok (.opDXYN 1 2 5) ∧ decode 0xEA9E = .ok (.opEX9E 0xA) ∧
  decode 0xFA1E = .ok (.opFX1E 0xA) ∧ decode 0x5121 = .error (.unsupported 0x5121) ∧
  decode 0x8A0E = .ok (.op8XYE 0xA 0) ∧ decode 0xC30F = .ok (.opCXNN 3 0x0F)

/-- Every well-formed instruction, with every operand at every value, is decoded from the word that encodes
it (R70, R71, R77); the well-formed 0NNN terms are those of R79 (log 13). -/
def Obligations.EveryInstructionDecodesFromItsWord : Prop :=
  ∀ i : Instr, i.wf = true → decode (encode i) = .ok i

/-- A word has one meaning: what it decodes to is well formed and is encoded by that word (R77, R83). It
rests on strict decode, the spec's decision D2 (log 14): no near-miss word such as 5XY1 decodes to its
neighbour; and on the constructor of 0NNN leaving out the two words of 00E0 and 00EE (log 13). -/
def Obligations.DecodedInstructionEncodesBack : Prop :=
  ∀ (w : Word) (i : Instr), decode w = .ok i → i.wf = true ∧ encode i = w

/-- Decoding consumes exactly the two bytes of an instruction, the more significant first, and leaves the
rest (R50, R70, R82). -/
def Obligations.DecodingConsumesTwoBytes : Prop :=
  ∀ (i : Instr) (rest : List Byte), i.wf = true →
    ∃ hi lo, encodeBytes i = [hi, lo] ∧ hi.toNat * 256 + lo.toNat = (encode i).toNat ∧
      decodeBytes (encodeBytes i ++ rest) = .ok (i, rest)

/-- The words the decoder rejects, by nibbles: 5XYn and 9XYn with n nonzero, class 8 with low nibble 8 to D or
F, class E with another low byte than 9E and A1, class F with another low byte than the nine named ones. The
0NNN words, which the map of R77 lists as outside it too, are excepted: the model decodes them to a
constructor of their own, whose meaning is the same fault (R79; log 13). That 5XYn and 9XYn are rejected is
strict decode, the spec's decision D2 (log 14). -/
def Obligations.UnsupportedWordsByNibbles : Prop :=
  ∀ w : Word, decode w = .error (.unsupported w) ↔
    (w.extractLsb' 12 4 = 0x5#4 ∧ w.extractLsb' 0 4 ≠ 0x0#4) ∨
    (w.extractLsb' 12 4 = 0x9#4 ∧ w.extractLsb' 0 4 ≠ 0x0#4) ∨
    (w.extractLsb' 12 4 = 0x8#4 ∧ w.extractLsb' 0 4 ∈ [0x8#4, 0x9, 0xA, 0xB, 0xC, 0xD, 0xF]) ∨
    (w.extractLsb' 12 4 = 0xE#4 ∧ w.extractLsb' 0 8 ∉ [0x9E#8, 0xA1]) ∨
    (w.extractLsb' 12 4 = 0xF#4 ∧
      w.extractLsb' 0 8 ∉ [0x07#8, 0x0A, 0x15, 0x18, 0x1E, 0x29, 0x33, 0x55, 0x65])

/-! ### The cycle -/

/-- When PC and PC + 1 are inside memory, a step of a core that is not Faulted is, on the state u left by the
advance of PC by 2 and the tick stage of step 3, the execution of the instruction the fetched word decodes
to; where the word decodes to none, it is u with FAULT = UnsupportedInstruction(word) and nothing else
changed (R72, R74, R75, R78, R231). The state u is written out; that SND and the signal are judged from ST
before its decrement is the spec's decision D9, that a raise is a next state with FAULT set is D15 and
log 7, which words decode to none is D2 (logs 13, 14), and `signal` and `env` are the model's own (logs
1, 9). -/
def Obligations.StepRunsTheDecodedInstruction : Prop :=
  ∀ (s u : State) (w : Word), s.fault = none → s.pc.toNat + 1 < 4096 →
    w = wordOfBytes (s.mem.read s.pc.toNat) (s.mem.read (s.pc.toNat + 1)) →
    u = { s with
      pc := s.pc + 2
      env := s.env.afterTick
      dt := if s.env.tick = true ∧ s.dt ≠ 0 then s.dt - 1 else s.dt
      st := if s.env.tick = true ∧ s.st ≠ 0 then s.st - 1 else s.st
      snd := if s.env.tick = true then (if s.st = 0 then .stopped else .playing) else s.snd
      signal :=
        if s.env.tick = true ∧ s.st ≠ 0 ∧ s.snd = .stopped then some .start
        else if s.env.tick = true ∧ s.st = 0 ∧ s.snd = .playing then some .stop
        else none } →
    (∀ i, decode w = .ok i → step s = exec i u) ∧
    ((∀ i, decode w ≠ .ok i) →
      step s = .next { u with fault := some (.unsupportedInstruction w) })

/-- The fetch reads PC then PC + 1, big-endian, and changes nothing; a PC of 0xFFF or more faults with the
first address outside memory, before PC changes and before the tick (R50, R73, R232). That an access outside
memory faults is the spec's decision D3, that the fault is a next state with FAULT set is D15 and log 7, that
the signal output is cleared is log 9, that the cycle uses up no `tick` sample is log 16. -/
def Obligations.FetchReadsBigEndianOrFaults : Prop :=
  ∀ s : State,
    (s.pc.toNat + 1 < 4096 → ∃ w, fetch s = .ok w s ∧
      w.toNat = (s.mem.read s.pc.toNat).toNat * 256 + (s.mem.read (s.pc.toNat + 1)).toNat) ∧
    (s.fault = none → 4096 ≤ s.pc.toNat + 1 → ∃ t, step s = .next t ∧
      t.fault = some (.memoryOutOfRange (if s.pc.toNat = 0xFFF then 0x1000 else s.pc.toNat)) ∧
      t.signal = none ∧ ChangesOnly [.fault, .signal] s t)

/-- A word that matches no row of R77, a 0NNN word among them, raises UnsupportedInstruction with the raw word
and has no other effect (R78, R79). That a raise sets FAULT is the spec's decision D15 and that it answers a
next state is log 7; which words match no row is strict decode, D2 (log 14). What a step does at such a
word is in `StepRunsTheDecodedInstruction`. -/
def Obligations.UnmatchedWordFaultsWithNoOtherEffect : Prop :=
  ∀ (w : Word) (s : State), (∀ r ∈ rowsR77, w &&& r.mask ≠ r.bits) →
    ∃ t, dispatchWord w s = .next t ∧ t.fault = some (.unsupportedInstruction w) ∧
      ChangesOnly [.fault] s t

/-- Once FAULT is set the core has no further `Cycle` or `Execute` step and reports that fault (R37, R237; the
spec's decision D15; that the report is the outcome `.fault` is log 7). -/
def Obligations.FaultedCoreTakesNoStep : Prop :=
  ∀ (s : State) (f : Fault), s.fault = some f →
    step s = .fault f ∧ ∀ w, execute w s = .fault f

/-- A step of a core that is not Faulted always answers a next state: no instruction, operand or word stops or
is refused. That a raise, which ends the cycle at that point (R11, R72), is a next state with FAULT set is
the model's reading of R37 and R237 (D15; log 7). -/
def Obligations.RunningCoreAlwaysCompletesItsCycle : Prop :=
  ∀ s : State, s.fault = none → ∃ t, step s = .next t

/-- Step 3 of the cycle: with no tick due nothing but the sampled input changes; with a tick both timers count
down to 0 and stay there, SND is judged from ST before its decrement, and the signal marks the change of SND
(R240, R241, R242, R243; the order is the spec's decision D9). -/
def Obligations.TickCountsDownAndDrivesSound : Prop :=
  ∀ s : State,
    (s.env.tick = false → ChangesOnly [.inputs] s (tickStage s)) ∧
    (s.env.tick = true →
      (tickStage s).dt.toNat = s.dt.toNat - 1 ∧ (tickStage s).st.toNat = s.st.toNat - 1 ∧
      ((tickStage s).snd = .playing ↔ 0 < s.st.toNat) ∧
      ((tickStage s).signal = some .start ↔ s.snd = .stopped ∧ 0 < s.st.toNat) ∧
      ((tickStage s).signal = some .stop ↔ s.snd = .playing ∧ s.st.toNat = 0) ∧
      ChangesOnly [.delay, .soundTimer, .sound, .signal, .inputs] s (tickStage s))

/-- SND does not change between ticks, even when FX18 writes ST: a cycle whose tick is not due leaves SND and
emits nothing (R242, D9; that the emitted signal is the field `signal` is log 9). -/
def Obligations.SoundIsStillWithoutATick : Prop :=
  ∀ s t : State, s.env.tick = false → step s = .next t → t.snd = s.snd ∧ t.signal = none

/-- Every cycle emits Start exactly when it moves SND from stopped to playing, Stop exactly when it moves it
from playing to stopped, and nothing otherwise; both happen only at a tick (R243; that the emitted signal is the
field `signal`, none at the start of a cycle, is log 9). -/
def Obligations.AudioSignalsAreEdges : Prop :=
  ∀ s t : State, step s = .next t →
    (t.signal = some .start ↔ s.snd = .stopped ∧ t.snd = .playing) ∧
    (t.signal = some .stop ↔ s.snd = .playing ∧ t.snd = .stopped) ∧
    (t.signal = none ↔ t.snd = s.snd) ∧
    (t.signal ≠ none → s.env.tick = true)

/-- Every cycle keeps the invariant, from every state that meets it: memory canonical, every PC value below
0x10FF and every return address at most 0x1000 (R24), FAULT's info well formed (R230 to R234; the faults of
memory and stack are the spec's decisions D3 and D4), the field `signal` in accord with SND (R243; that the
output is a field of State is log 9). -/
def Obligations.EveryCycleKeepsTheInvariant : Prop :=
  ∀ s t : State, s.Inv → step s = .next t → t.Inv

/-- The state after reset meets the invariant, for `State.reset` and for `Reset` of any image (R271). -/
def Obligations.ResetMeetsTheInvariant : Prop :=
  State.reset.Inv ∧
    ∀ (font2F : Vector Byte 70) (env : Env) (image : List Byte) (s : State),
      resetWith font2F env image = .ok s → s.Inv

/-- Key wait: while PC addresses an FX0A word and no key is latched, a cycle leaves PC, the registers, memory,
the stack and the screen as they were, and its tick is applied (R213, R216, R279; `signal` and `env` are the
model's own, logs 1, 3, 9). -/
def Obligations.KeyWaitMakesNoProgress : Prop :=
  ∀ (s : State) (x : Reg), s.fault = none → s.pc.toNat + 1 < 4096 →
    decode (wordOfBytes (s.mem.read s.pc.toNat) (s.mem.read (s.pc.toNat + 1))) = .ok (.opFX0A x) →
    s.env.key = none →
    ∃ t, step s = .next t ∧ t.dt = (tickStage s).dt ∧ t.st = (tickStage s).st ∧
      t.snd = (tickStage s).snd ∧ t.env = s.env.afterTick.afterKey ∧
      ChangesOnly [.delay, .soundTimer, .sound, .signal, .inputs] s t

/-- The fetch is coherent with data writes: once FX33 has run with I + 2 inside memory, where it does not
fault, a fetch at I reads the hundreds and tens digits it stored as the instruction word, with no further
action (R63, R277). Memory is in its canonical form, which every cycle keeps. -/
def Obligations.StoredDigitsAreFetchedAsCode : Prop :=
  ∀ (x : Reg) (s t : State), s.mem.wf → s.i.toNat + 2 < 4096 →
    exec (.opFX33 x) s = .next t →
    ∃ w, fetch (t.setPC t.i) = .ok w (t.setPC t.i) ∧
      w.toNat = (s.V x).toNat / 100 * 256 + (s.V x).toNat / 10 % 10

/-! ### Who writes what -/

/-- No instruction writes VF but those that name it as their destination, and 8XY4, 8XY5, 8XY6, 8XY7, 8XYE and
DXYN, which write it as a flag (R22). -/
def Obligations.OnlyFlagWritersAndDestinationsWriteVF : Prop :=
  ∀ (i : Instr) (s t : State), exec i s = .next t → t.V 0xF ≠ s.V 0xF →
    (∃ x y, i = .op8XY4 x y ∨ i = .op8XY5 x y ∨ i = .op8XY6 x y ∨ i = .op8XY7 x y ∨
      i = .op8XYE x y) ∨
    (∃ x y n, i = .opDXYN x y n) ∨
    (∃ nn, i = .op6XNN 0xF nn ∨ i = .op7XNN 0xF nn ∨ i = .opCXNN 0xF nn) ∨
    (∃ y, i = .op8XY0 0xF y ∨ i = .op8XY1 0xF y ∨ i = .op8XY2 0xF y ∨ i = .op8XY3 0xF y) ∨
    i = .opFX07 0xF ∨ i = .opFX0A 0xF

/-- ANNN, FX1E and FX29 write I, and no other instruction does (R27). -/
def Obligations.OnlyIndexInstructionsWriteI : Prop :=
  ∀ (i : Instr) (s t : State), exec i s = .next t → t.i ≠ s.i →
    (∃ nnn, i = .opANNN nnn) ∨ ∃ x, i = .opFX1E x ∨ i = .opFX29 x

/-- FX33 writes memory, and no other instruction does (R31, R53). -/
def Obligations.OnlyBcdWritesMemory : Prop :=
  ∀ (i : Instr) (s t : State) (a : Nat), exec i s = .next t →
    t.mem.read a ≠ s.mem.read a → ∃ x, i = .opFX33 x

/-- The instructions that write PC: 00EE, 1NNN, 2NNN, BNNN, the skips, and FX0A with no key (R23). -/
def Obligations.OnlyControlInstructionsWritePC : Prop :=
  ∀ (i : Instr) (s t : State), exec i s = .next t → t.pc ≠ s.pc →
    i = .op00EE ∨ (∃ nnn, i = .op1NNN nnn ∨ i = .op2NNN nnn ∨ i = .opBNNN nnn) ∨
    (∃ x nn, (i = .op3XNN x nn ∨ i = .op4XNN x nn) ∧ t.pc = s.pc + 2) ∨
    (∃ x y, (i = .op5XY0 x y ∨ i = .op9XY0 x y) ∧ t.pc = s.pc + 2) ∨
    (∃ x, (i = .opEX9E x ∨ i = .opEXA1 x) ∧ t.pc = s.pc + 2) ∨
    (∃ x, i = .opFX0A x ∧ s.env.key = none ∧ t.pc = s.pc - 2)

/-- The stack is written only by 2NNN, and SP moves only by 2NNN and 00EE, by one (R25, R26). -/
def Obligations.OnlyCallAndReturnTouchTheStack : Prop :=
  ∀ (i : Instr) (s t : State), exec i s = .next t →
    ((∃ k, t.S k ≠ s.S k) → ∃ nnn, i = .op2NNN nnn) ∧
    (t.sp ≠ s.sp → (i = .op00EE ∧ t.sp.val + 1 = s.sp.val) ∨
      ∃ nnn, i = .op2NNN nnn ∧ t.sp.val = s.sp.val + 1)

/-- FX15 writes DT and FX18 writes ST; no other instruction writes a timer, and none changes the sound output
or emits a signal (R28, R29, R33; the field `signal` is log 9). -/
def Obligations.OnlyTimerInstructionsWriteTimers : Prop :=
  ∀ (i : Instr) (s t : State), exec i s = .next t →
    (t.dt ≠ s.dt → ∃ x, i = .opFX15 x) ∧ (t.st ≠ s.st → ∃ x, i = .opFX18 x) ∧
    t.snd = s.snd ∧ t.signal = s.signal

/-- 00E0 and DXYN write the framebuffer, and no other instruction does (R32). -/
def Obligations.OnlyClearAndDrawWriteTheScreen : Prop :=
  ∀ (i : Instr) (s t : State) (x : Fin 64) (y : Fin 32), exec i s = .next t →
    t.cell x y ≠ s.cell x y → i = .op00E0 ∨ ∃ vx vy n, i = .opDXYN vx vy n

/-- The fault an instruction can raise, each of one kind: StackUnderflow by 00EE at SP = 0, StackOverflow by
2NNN at SP = 16, MemoryOutOfRange by DXYN and FX33 at an address from I on and outside memory,
UnsupportedInstruction by FX55, FX65 and 0NNN (R230 to R234, R236; decisions D3, D4, D15; log 7). -/
def Obligations.EachInstructionRaisesItsOwnFault : Prop :=
  ∀ (i : Instr) (s t : State), exec i s = .next t → s.fault = none →
    t.fault = none ∨
    (i = .op00EE ∧ s.sp.val = 0 ∧ t.fault = some (.stackUnderflow 0)) ∨
    (∃ nnn, i = .op2NNN nnn ∧ s.sp.val = 16 ∧ t.fault = some (.stackOverflow 16)) ∨
    (∃ x y n k, i = .opDXYN x y n ∧ k < n.val ∧ 4096 ≤ s.i.toNat + k ∧
      t.fault = some (.memoryOutOfRange (s.i.toNat + k))) ∨
    (∃ x k, i = .opFX33 x ∧ k < 3 ∧ 4096 ≤ s.i.toNat + k ∧
      t.fault = some (.memoryOutOfRange (s.i.toNat + k))) ∨
    (i.executes = false ∧ t.fault = some (.unsupportedInstruction (encode i)))

/-- Each instruction samples exactly the inputs its rule names: CXNN draws one byte, EX9E, EXA1 and FX0A sample
the latch once, the others sample nothing (R14, R15; `env` is the model's own, logs 2 and 3). -/
def Obligations.InstructionsSampleTheirInputsOnce : Prop :=
  ∀ (i : Instr) (s t : State), exec i s = .next t →
    ((∃ x nn, i = .opCXNN x nn) ∧ t.env = s.env.afterRand) ∨
    ((∃ x, i = .opEX9E x ∨ i = .opEXA1 x ∨ i = .opFX0A x) ∧ t.env = s.env.afterKey) ∨
    ((∀ x nn, i ≠ .opCXNN x nn) ∧ (∀ x, i ≠ .opEX9E x ∧ i ≠ .opEXA1 x ∧ i ≠ .opFX0A x) ∧
      t.env = s.env)

/-! ### Control flow -/

/-- 00EE: SP falls by one and PC takes the entry it then names, which is not cleared; with SP = 0 it raises
StackUnderflow and changes nothing else (R100, R234; decisions D4, D5, D15; log 7). -/
def Obligations.ReturnPopsTheLastPushedAddress : Prop :=
  Encodes 0xFFFF 0x00EE (fun _ => .op00EE) ∧
  ∀ s : State,
    (∀ k : Fin 16, s.sp.val = k.val + 1 →
      ∃ t, exec .op00EE s = .next t ∧ t.sp.val = k.val ∧ t.pc = s.S k ∧
        ChangesOnly [.pc, .sp] s t) ∧
    (s.sp.val = 0 → ∃ t, exec .op00EE s = .next t ∧ t.fault = some (.stackUnderflow 0) ∧
      ChangesOnly [.fault] s t)

/-- 1NNN: PC takes the 12-bit address, zero-extended, odd or even; nothing else changes (R101). -/
def Obligations.JumpSetsPC : Prop :=
  Encodes 0xF000 0x1000 (fun w => .op1NNN (fieldNNN w)) ∧
  ∀ (nnn : Addr) (s : State), ∃ t, exec (.op1NNN nnn) s = .next t ∧
    t.pc.toNat = nnn.toNat ∧ ChangesOnly [.pc] s t

/-- 2NNN: the advanced PC goes to the entry at SP, SP rises by one, PC takes the address; with SP = 16 it
raises StackOverflow and changes nothing else (R102, R233; decisions D4, D15; log 7). -/
def Obligations.CallPushesTheReturnAddress : Prop :=
  Encodes 0xF000 0x2000 (fun w => .op2NNN (fieldNNN w)) ∧
  ∀ (nnn : Addr) (s : State),
    (s.sp.val < 16 → ∃ t, exec (.op2NNN nnn) s = .next t ∧ t.sp.val = s.sp.val + 1 ∧
      t.pc.toNat = nnn.toNat ∧
      (∀ k : Fin 16, t.S k = if k.val = s.sp.val then s.pc else s.S k) ∧
      ChangesOnly [.pc, .sp, .stack] s t) ∧
    (s.sp.val = 16 → ∃ t, exec (.op2NNN nnn) s = .next t ∧ t.fault = some (.stackOverflow 16) ∧
      ChangesOnly [.fault] s t)

/-- 3XNN and 4XNN: PC passes over one more word when V[X] equals, or differs from, NN; nothing else changes
(R103, R104). -/
def Obligations.SkipOnImmediate : Prop :=
  Encodes 0xF000 0x3000 (fun w => .op3XNN (fieldX w) (fieldNN w)) ∧
  Encodes 0xF000 0x4000 (fun w => .op4XNN (fieldX w) (fieldNN w)) ∧
  ∀ (x : Reg) (nn : Byte) (s : State),
    (∃ t, exec (.op3XNN x nn) s = .next t ∧
      t.pc = (if (s.V x).toNat = nn.toNat then s.pc + 2 else s.pc) ∧ ChangesOnly [.pc] s t) ∧
    (∃ t, exec (.op4XNN x nn) s = .next t ∧
      t.pc = (if (s.V x).toNat = nn.toNat then s.pc else s.pc + 2) ∧ ChangesOnly [.pc] s t)

/-- 5XY0 and 9XY0: PC passes over one more word when V[X] equals, or differs from, V[Y]; nothing else changes
(R105, R106; that the low nibble must be 0 is D2). -/
def Obligations.SkipOnRegister : Prop :=
  Encodes 0xF00F 0x5000 (fun w => .op5XY0 (fieldX w) (fieldY w)) ∧
  Encodes 0xF00F 0x9000 (fun w => .op9XY0 (fieldX w) (fieldY w)) ∧
  ∀ (x y : Reg) (s : State),
    (∃ t, exec (.op5XY0 x y) s = .next t ∧
      t.pc = (if (s.V x).toNat = (s.V y).toNat then s.pc + 2 else s.pc) ∧
      ChangesOnly [.pc] s t) ∧
    (∃ t, exec (.op9XY0 x y) s = .next t ∧
      t.pc = (if (s.V x).toNat = (s.V y).toNat then s.pc else s.pc + 2) ∧
      ChangesOnly [.pc] s t)

/-- BNNN: PC takes the full-width sum of the address and V0, not reduced to 12 bits (R59, R107; decision
D6). -/
def Obligations.JumpWithOffsetIsNotMasked : Prop :=
  Encodes 0xF000 0xB000 (fun w => .opBNNN (fieldNNN w)) ∧
  ∀ (nnn : Addr) (s : State), ∃ t, exec (.opBNNN nnn) s = .next t ∧
    t.pc.toNat = nnn.toNat + (s.V 0).toNat ∧ ChangesOnly [.pc] s t

/-- 2NNN then 00EE, with the stack and SP between them as the call left them, restores the PC that the call
saved and the SP before it (R100, R102; the order of the pop is D5). -/
def Obligations.CallThenReturnRestoresPC : Prop :=
  ∀ (nnn : Addr) (s t u : State), s.sp.val < 16 → exec (.op2NNN nnn) s = .next t →
    u.sp = t.sp → (∀ k, u.S k = t.S k) →
    ∃ r, exec .op00EE u = .next r ∧ r.pc = s.pc ∧ r.sp = s.sp

/-! ### Register loads and arithmetic-logic -/

/-- 6XNN: V[X] takes NN, VF too when X = F; nothing else changes (R131). -/
def Obligations.LoadImmediate : Prop :=
  Encodes 0xF000 0x6000 (fun w => .op6XNN (fieldX w) (fieldNN w)) ∧
  ∀ (x : Reg) (nn : Byte) (s : State), ∃ t, exec (.op6XNN x nn) s = .next t ∧
    t.V x = nn ∧ RegsExcept [x] s t ∧ ChangesOnly [.regs] s t

/-- 7XNN: V[X] takes the sum modulo 256; VF is not written as a carry (R132). -/
def Obligations.AddImmediateWritesNoCarry : Prop :=
  Encodes 0xF000 0x7000 (fun w => .op7XNN (fieldX w) (fieldNN w)) ∧
  ∀ (x : Reg) (nn : Byte) (s : State), ∃ t, exec (.op7XNN x nn) s = .next t ∧
    (t.V x).toNat = ((s.V x).toNat + nn.toNat) % 256 ∧ RegsExcept [x] s t ∧
    ChangesOnly [.regs] s t

/-- 8XY0: V[X] takes V[Y] (R133). -/
def Obligations.CopyRegister : Prop :=
  Encodes 0xF00F 0x8000 (fun w => .op8XY0 (fieldX w) (fieldY w)) ∧
  ∀ (x y : Reg) (s : State), ∃ t, exec (.op8XY0 x y) s = .next t ∧
    t.V x = s.V y ∧ RegsExcept [x] s t ∧ ChangesOnly [.regs] s t

/-- 8XY1, 8XY2, 8XY3: V[X] takes the bitwise OR, AND, XOR; VF is not reset (R134, R135, R136). -/
def Obligations.BitwiseOperations : Prop :=
  Encodes 0xF00F 0x8001 (fun w => .op8XY1 (fieldX w) (fieldY w)) ∧
  Encodes 0xF00F 0x8002 (fun w => .op8XY2 (fieldX w) (fieldY w)) ∧
  Encodes 0xF00F 0x8003 (fun w => .op8XY3 (fieldX w) (fieldY w)) ∧
  ∀ (x y : Reg) (s : State),
    (∃ t, exec (.op8XY1 x y) s = .next t ∧
      (∀ j, (t.V x).getLsbD j = ((s.V x).getLsbD j || (s.V y).getLsbD j)) ∧
      RegsExcept [x] s t ∧ ChangesOnly [.regs] s t) ∧
    (∃ t, exec (.op8XY2 x y) s = .next t ∧
      (∀ j, (t.V x).getLsbD j = ((s.V x).getLsbD j && (s.V y).getLsbD j)) ∧
      RegsExcept [x] s t ∧ ChangesOnly [.regs] s t) ∧
    (∃ t, exec (.op8XY3 x y) s = .next t ∧
      (∀ j, (t.V x).getLsbD j = ((s.V x).getLsbD j ^^ (s.V y).getLsbD j)) ∧
      RegsExcept [x] s t ∧ ChangesOnly [.regs] s t)

/-- 8XY4: V[X] takes the sum modulo 256 and VF is 1 exactly when the exact sum exceeds 255; when X = F the
flag, written last, is what VF holds (R130, R137). -/
def Obligations.AddSetsCarry : Prop :=
  Encodes 0xF00F 0x8004 (fun w => .op8XY4 (fieldX w) (fieldY w)) ∧
  ∀ (x y : Reg) (s : State), ∃ t, exec (.op8XY4 x y) s = .next t ∧
    (x ≠ 0xF → (t.V x).toNat = ((s.V x).toNat + (s.V y).toNat) % 256) ∧
    (t.V 0xF).toNat = (if (s.V x).toNat + (s.V y).toNat > 255 then 1 else 0) ∧
    RegsExcept [x, 0xF] s t ∧ ChangesOnly [.regs] s t

/-- 8XY5 and 8XY7: V[X] takes the difference modulo 256 and VF is 0 exactly when a borrow occurred; when X = F
the flag, written last, is what VF holds (R130, R138, R140). -/
def Obligations.SubtractSetsNotBorrow : Prop :=
  Encodes 0xF00F 0x8005 (fun w => .op8XY5 (fieldX w) (fieldY w)) ∧
  Encodes 0xF00F 0x8007 (fun w => .op8XY7 (fieldX w) (fieldY w)) ∧
  ∀ (x y : Reg) (s : State),
    (∃ t, exec (.op8XY5 x y) s = .next t ∧
      (x ≠ 0xF → ((t.V x).toNat : Int) = (((s.V x).toNat : Int) - (s.V y).toNat) % 256) ∧
      (t.V 0xF).toNat = (if (s.V x).toNat < (s.V y).toNat then 0 else 1) ∧
      RegsExcept [x, 0xF] s t ∧ ChangesOnly [.regs] s t) ∧
    (∃ t, exec (.op8XY7 x y) s = .next t ∧
      (x ≠ 0xF → ((t.V x).toNat : Int) = (((s.V y).toNat : Int) - (s.V x).toNat) % 256) ∧
      (t.V 0xF).toNat = (if (s.V y).toNat < (s.V x).toNat then 0 else 1) ∧
      RegsExcept [x, 0xF] s t ∧ ChangesOnly [.regs] s t)

/-- 8XY6, for any Y: VF takes the old bit 0 of V[X] and V[X] is halved; when X = F the shift reads the flag
just written and VF ends 0 (R80, R139; the X = F case is decision D14). -/
def Obligations.ShiftRightMovesBitZeroToVF : Prop :=
  Encodes 0xF00F 0x8006 (fun w => .op8XY6 (fieldX w) (fieldY w)) ∧
  ∀ (x y : Reg) (s : State), ∃ t, exec (.op8XY6 x y) s = .next t ∧
    (x ≠ 0xF → (t.V x).toNat = (s.V x).toNat / 2 ∧ (t.V 0xF).toNat = (s.V x).toNat % 2) ∧
    (x = 0xF → (t.V 0xF).toNat = 0) ∧
    RegsExcept [x, 0xF] s t ∧ ChangesOnly [.regs] s t

/-- 8XYE, for any Y: VF takes the old bit 7 of V[X] and V[X] is doubled modulo 256; when X = F the shift reads
the flag just written and VF ends twice the old bit 7 (R80, R141; the X = F case is decision D14). -/
def Obligations.ShiftLeftMovesBitSevenToVF : Prop :=
  Encodes 0xF00F 0x800E (fun w => .op8XYE (fieldX w) (fieldY w)) ∧
  ∀ (x y : Reg) (s : State), ∃ t, exec (.op8XYE x y) s = .next t ∧
    (x ≠ 0xF → (t.V x).toNat = (s.V x).toNat * 2 % 256 ∧
      (t.V 0xF).toNat = (s.V x).toNat / 128) ∧
    (x = 0xF → (t.V 0xF).toNat = (s.V x).toNat / 128 * 2) ∧
    RegsExcept [x, 0xF] s t ∧ ChangesOnly [.regs] s t

/-- CXNN: V[X] takes the drawn byte AND NN, one byte is drawn, VF is not written as a flag; it holds for every
byte the draw may give (R14, R142, D12; `env` is the model's own, log 2). -/
def Obligations.RandomByteIsMasked : Prop :=
  Encodes 0xF000 0xC000 (fun w => .opCXNN (fieldX w) (fieldNN w)) ∧
  ∀ (x : Reg) (nn r : Byte) (s : State), s.env.rand = r →
    ∃ t, exec (.opCXNN x nn) s = .next t ∧
      (∀ j, (t.V x).getLsbD j = (r.getLsbD j && nn.getLsbD j)) ∧
      t.env = s.env.afterRand ∧ RegsExcept [x] s t ∧ ChangesOnly [.regs, .inputs] s t

/-! ### Index register and memory -/

/-- ANNN: I takes the 12-bit address, zero-extended; nothing else changes (R170). -/
def Obligations.LoadIndex : Prop :=
  Encodes 0xF000 0xA000 (fun w => .opANNN (fieldNNN w)) ∧
  ∀ (nnn : Addr) (s : State), ∃ t, exec (.opANNN nnn) s = .next t ∧
    t.i.toNat = nnn.toNat ∧ ChangesOnly [.index] s t

/-- FX1E: I takes the sum modulo 65536, a result of 0x1000 or more is held, VF is not written (R171; the wrap
is decision D7). -/
def Obligations.AddToIndexWritesNoFlag : Prop :=
  Encodes 0xF0FF 0xF01E (fun w => .opFX1E (fieldX w)) ∧
  ∀ (x : Reg) (s : State), ∃ t, exec (.opFX1E x) s = .next t ∧
    t.i.toNat = (s.i.toNat + (s.V x).toNat) % 65536 ∧ ChangesOnly [.index] s t

/-- FX29: I takes V[X] * 5, for V[X] above 0xF too (R56, R172). -/
def Obligations.PointIndexAtGlyph : Prop :=
  Encodes 0xF0FF 0xF029 (fun w => .opFX29 (fieldX w)) ∧
  ∀ (x : Reg) (s : State), ∃ t, exec (.opFX29 x) s = .next t ∧
    t.i.toNat = (s.V x).toNat * 5 ∧ ChangesOnly [.index] s t

/-- FX33: the decimal digits of V[X] go to I, I + 1 and I + 2, every other byte reads as before, I is not
changed; where one of those addresses is outside memory the first such address is the fault's and the digits
below it are written (R53, R173, R232; the fault and the order are D3, D15, log 7). Memory is in its canonical
form, which every cycle keeps. -/
def Obligations.StoreBcdWritesThreeDigits : Prop :=
  Encodes 0xF0FF 0xF033 (fun w => .opFX33 (fieldX w)) ∧
  ∀ (x : Reg) (s : State), s.mem.wf →
    (indexAddr s 2 < 4096 → ∃ t, exec (.opFX33 x) s = .next t ∧
      (t.mem.read (indexAddr s 0)).toNat = (s.V x).toNat / 100 ∧
      (t.mem.read (indexAddr s 1)).toNat = (s.V x).toNat / 10 % 10 ∧
      (t.mem.read (indexAddr s 2)).toNat = (s.V x).toNat % 10 ∧
      (∀ a, a ≠ indexAddr s 0 → a ≠ indexAddr s 1 → a ≠ indexAddr s 2 →
        t.mem.read a = s.mem.read a) ∧
      ChangesOnly [.memory] s t) ∧
    (4096 ≤ indexAddr s 2 → ∃ t, exec (.opFX33 x) s = .next t ∧
      t.fault = some (.memoryOutOfRange (max (indexAddr s 0) 4096)) ∧
      (indexAddr s 0 < 4096 → (t.mem.read (indexAddr s 0)).toNat = (s.V x).toNat / 100) ∧
      (indexAddr s 1 < 4096 → (t.mem.read (indexAddr s 1)).toNat = (s.V x).toNat / 10 % 10) ∧
      (∀ a, ¬ (a < 4096 ∧ (a = indexAddr s 0 ∨ a = indexAddr s 1)) →
        t.mem.read a = s.mem.read a) ∧
      ChangesOnly [.memory, .fault] s t)

/-- FX55, FX65 and 0NNN always take the fault UnsupportedInstruction with the whole word and change nothing
else (R79, R174, R175, R231). That a raise is a next state with FAULT set is D15 and log 7; the clause on
`op0NNN` also covers its two terms 0x0E0 and 0x0EE, which R79 leaves out and no word stands for (log 13). -/
def Obligations.NamedUnsupportedWordsFault : Prop :=
  Encodes 0xF0FF 0xF055 (fun w => .opFX55 (fieldX w)) ∧
  Encodes 0xF0FF 0xF065 (fun w => .opFX65 (fieldX w)) ∧
  (∀ w : Word, w &&& 0xF000 = 0x0000 → w ≠ 0x00E0 → w ≠ 0x00EE →
    decode w = .ok (.op0NNN (fieldNNN w))) ∧
  ∀ (x : Reg) (nnn : Addr) (s : State),
    (∃ t, exec (.opFX55 x) s = .next t ∧
      t.fault = some (.unsupportedInstruction (BitVec.ofNat 16 (0xF055 + 0x100 * x.val))) ∧
      ChangesOnly [.fault] s t) ∧
    (∃ t, exec (.opFX65 x) s = .next t ∧
      t.fault = some (.unsupportedInstruction (BitVec.ofNat 16 (0xF065 + 0x100 * x.val))) ∧
      ChangesOnly [.fault] s t) ∧
    (∃ t, exec (.op0NNN nnn) s = .next t ∧
      t.fault = some (.unsupportedInstruction (BitVec.ofNat 16 nnn.toNat)) ∧
      ChangesOnly [.fault] s t)

/-! ### Graphics -/

/-- 00E0: every cell is 0 and nothing else changes, VF included (R190). -/
def Obligations.ClearScreen : Prop :=
  Encodes 0xFFFF 0x00E0 (fun _ => .op00E0) ∧
  ∀ s : State, ∃ t, exec .op00E0 s = .next t ∧ (∀ x y, t.cell x y = false) ∧
    ChangesOnly [.screen] s t

/-- DXYN row by row, for every X and Y, F included. With N = 0 it clears VF and reads nothing. Row n, drawn
on the state u that the n rows before it left, reads its coordinates from u, inverts the cells under its set
bits, and sets VF when one of them was set. Where I + n is the first address outside memory every taller
sprite faults there, on the state u (R191, R192; the order of the reads is decision D13, the fault D3 and
D15, log 7). -/
def Obligations.DrawSpriteRowByRow : Prop :=
  Encodes 0xF000 0xD000 (fun w => .opDXYN (fieldX w) (fieldY w) (fieldN w)) ∧
  ∀ (x y : Reg) (s : State),
    (∃ t, exec (.opDXYN x y 0) s = .next t ∧ t.V 0xF = 0 ∧ RegsExcept [0xF] s t ∧
      ChangesOnly [.regs] s t) ∧
    (∀ n m : Fin 16, m.val = n.val + 1 → s.i.toNat + n.val < 4096 →
      ∃ u t, exec (.opDXYN x y n) s = .next u ∧ exec (.opDXYN x y m) s = .next t ∧
        (∀ cx cy, t.cell cx cy = (u.cell cx cy ^^
          rowPixel (u.V x).toNat (u.V y).toNat n.val (s.mem.read (s.i.toNat + n.val)) cx cy)) ∧
        ((∃ cx cy, u.cell cx cy = true ∧
          rowPixel (u.V x).toNat (u.V y).toNat n.val (s.mem.read (s.i.toNat + n.val)) cx cy = true) →
            t.V 0xF = 1) ∧
        ((∀ cx cy, u.cell cx cy = true →
          rowPixel (u.V x).toNat (u.V y).toNat n.val (s.mem.read (s.i.toNat + n.val)) cx cy = false) →
            t.V 0xF = u.V 0xF) ∧
        RegsExcept [0xF] s t ∧ ChangesOnly [.regs, .screen] s t) ∧
    (∀ n m : Fin 16, n.val < m.val → 4096 ≤ s.i.toNat + n.val →
      (∀ k, k < n.val → s.i.toNat + k < 4096) →
      ∃ u t, exec (.opDXYN x y n) s = .next u ∧ exec (.opDXYN x y m) s = .next t ∧
        t.fault = some (.memoryOutOfRange (s.i.toNat + n.val)) ∧ ChangesOnly [.fault] u t)

/-- DXYN whole, for coordinates that VF does not hold: every cell under a set bit of the sprite is inverted,
every other cell is unchanged, and VF is 1 exactly when a cell under a set bit was set before, else 0 (R192;
that all rows are inside memory is a premise, D3). -/
def Obligations.DrawSpriteInvertsItsPixels : Prop :=
  ∀ (x y : Reg) (n : Fin 16) (s : State), x ≠ 0xF → y ≠ 0xF →
    (n.val = 0 ∨ s.i.toNat + n.val ≤ 4096) →
    ∃ t, exec (.opDXYN x y n) s = .next t ∧
      (∀ cx cy, t.cell cx cy =
        (s.cell cx cy ^^ spritePixel s (s.V x).toNat (s.V y).toNat n.val cx cy)) ∧
      (t.V 0xF = 1 ↔ ∃ cx cy, s.cell cx cy = true ∧
        spritePixel s (s.V x).toNat (s.V y).toNat n.val cx cy = true) ∧
      (t.V 0xF = 0 ∨ t.V 0xF = 1) ∧
      RegsExcept [0xF] s t ∧ ChangesOnly [.regs, .screen] s t

/-- Double draw: with X and Y other than F, drawing the same sprite twice in a row restores every cell, and
the second draw sets VF exactly when some sprite bit is 1 at a cell that was 0 before the first (R193; that
all rows are inside memory is a premise, D3). -/
def Obligations.DoubleDrawRestoresTheScreen : Prop :=
  ∀ (x y : Reg) (n : Fin 16) (s : State), x ≠ 0xF → y ≠ 0xF →
    (n.val = 0 ∨ s.i.toNat + n.val ≤ 4096) →
    ∃ t u, exec (.opDXYN x y n) s = .next t ∧ exec (.opDXYN x y n) t = .next u ∧
      (∀ cx cy, u.cell cx cy = s.cell cx cy) ∧
      (u.V 0xF = 1 ↔ ∃ cx cy, s.cell cx cy = false ∧
        spritePixel s (s.V x).toNat (s.V y).toNat n.val cx cy = true) ∧
      RegsExcept [0xF] s u ∧ ChangesOnly [.regs] s u

/-! ### Key input and timers -/

/-- EX9E and EXA1: PC passes over one more word when the latch holds the key V[X], or does not; with no key
latched EX9E does not skip and EXA1 does; V[X] of 16 or more never matches (R210, R211; `env` is the model's
own, log 3). -/
def Obligations.SkipOnKey : Prop :=
  Encodes 0xF0FF 0xE09E (fun w => .opEX9E (fieldX w)) ∧
  Encodes 0xF0FF 0xE0A1 (fun w => .opEXA1 (fieldX w)) ∧
  ∀ (x : Reg) (s : State),
    (∃ t, exec (.opEX9E x) s = .next t ∧
      t.pc = (if s.env.key.map Fin.val = some (s.V x).toNat then s.pc + 2 else s.pc) ∧
      t.env = s.env.afterKey ∧ ChangesOnly [.pc, .inputs] s t) ∧
    (∃ t, exec (.opEXA1 x) s = .next t ∧
      t.pc = (if s.env.key.map Fin.val = some (s.V x).toNat then s.pc else s.pc + 2) ∧
      t.env = s.env.afterKey ∧ ChangesOnly [.pc, .inputs] s t)

/-- FX07: V[X] takes DT; nothing else changes (R212). -/
def Obligations.ReadDelayTimer : Prop :=
  Encodes 0xF0FF 0xF007 (fun w => .opFX07 (fieldX w)) ∧
  ∀ (x : Reg) (s : State), ∃ t, exec (.opFX07 x) s = .next t ∧
    t.V x = s.dt ∧ RegsExcept [x] s t ∧ ChangesOnly [.regs] s t

/-- FX0A: with no key latched PC goes back by 2 and no register is written; with a key latched V[X] takes its
code; the latch is sampled once (R15, R213; decision D11; `env` is the model's own, log 3). -/
def Obligations.WaitForKey : Prop :=
  Encodes 0xF0FF 0xF00A (fun w => .opFX0A (fieldX w)) ∧
  ∀ (x : Reg) (s : State),
    (s.env.key = none → ∃ t, exec (.opFX0A x) s = .next t ∧ t.pc = s.pc - 2 ∧
      t.env = s.env.afterKey ∧ ChangesOnly [.pc, .inputs] s t) ∧
    (∀ k : Key, s.env.key = some k → ∃ t, exec (.opFX0A x) s = .next t ∧
      (t.V x).toNat = k.val ∧ RegsExcept [x] s t ∧
      t.env = s.env.afterKey ∧ ChangesOnly [.regs, .inputs] s t)

/-- FX15 and FX18: DT, or ST, takes V[X]; the sound output does not change (R214, R215). -/
def Obligations.SetTimers : Prop :=
  Encodes 0xF0FF 0xF015 (fun w => .opFX15 (fieldX w)) ∧
  Encodes 0xF0FF 0xF018 (fun w => .opFX18 (fieldX w)) ∧
  ∀ (x : Reg) (s : State),
    (∃ t, exec (.opFX15 x) s = .next t ∧ t.dt = s.V x ∧ ChangesOnly [.delay] s t) ∧
    (∃ t, exec (.opFX18 x) s = .next t ∧ t.st = s.V x ∧ ChangesOnly [.soundTimer] s t)

/-! ### Reset and the host's operations -/

/-- `Reset(image)`, for every FONT_2_F: an image of exactly 4096 bytes gives the state of R271, the font over
its low 80 bytes and the image's bytes above; any other size fails (R36, R270, R271, R272; I = 0 and SND
stopped are decisions D10, D9). -/
def Obligations.ResetBuildsTheInitialState : Prop :=
  ∀ (font2F : Vector Byte 70) (env : Env) (image : List Byte),
    (image.length ≠ 4096 → resetWith font2F env image = .error .invalidMemorySize) ∧
    (image.length = 4096 → ∃ s, resetWith font2F env image = .ok s ∧
      (∀ a, a < 10 → some (s.mem.read a) =
        [0xF0#8, 0x90, 0x90, 0x90, 0xF0, 0x20, 0x60, 0x20, 0x20, 0x70][a]?) ∧
      (∀ k : Fin 70, s.mem.read (10 + k.val) = font2F[k]) ∧
      (∀ a, 80 ≤ a → a < 4096 → some (s.mem.read a) = image[a]?) ∧
      (∀ r, s.V r = 0) ∧ s.i = 0 ∧ s.pc = 0x200 ∧ (∀ k, s.S k = 0) ∧ s.sp.val = 0 ∧
      s.dt = 0 ∧ s.st = 0 ∧ (∀ x y, s.cell x y = false) ∧ s.snd = .stopped ∧ s.fault = none)

/-- The model's `State.reset` is `Reset` of the all-zero image with the default font and nothing supplied to
the environment: the model's choices of logs 4, 5 and 18 within R271. -/
def Obligations.StateResetIsResetOfTheZeroImage : Prop :=
  resetWith Config.font2F Env.initial (List.replicate 4096 0) = .ok State.reset

/-- `Execute(w)` on a core that is not Faulted is the dispatch of w on the state as it stands: no fetch, no
advance, no tick; a word that decodes runs its instruction, another is a raise (R78, R254; decisions D2, D15,
D16; logs 7, 12, 14). -/
def Obligations.ExecuteDispatchesOnTheCurrentState : Prop :=
  ∀ (w : Word) (s : State), s.fault = none →
    (∀ i, decode w = .ok i → execute w s = exec i s) ∧
    ((∀ i, decode w ≠ .ok i) → ∃ t, execute w s = .next t ∧
      t.fault = some (.unsupportedInstruction w) ∧ ChangesOnly [.fault] s t)

/-- The read accessors answer from the current state: V[i] for i in 0 to 0xF and InvalidRegisterIndex outside,
I, PC, DT, the 4096 bytes, and the 2048 cells in the order x + y*64 (R253). -/
def Obligations.AccessorsReadTheState : Prop :=
  ∀ s : State,
    (∀ i, (h : i < 16) → getRegister i s = .ok (s.V ⟨i, h⟩)) ∧
    (∀ i, 16 ≤ i → getRegister i s = .error .invalidRegisterIndex) ∧
    getIndexRegister s = s.i ∧ getProgramCounter s = s.pc ∧ getDelayTimer s = s.dt ∧
    (getMemory s).length = 4096 ∧ (∀ a, a < 4096 → (getMemory s)[a]? = some (s.mem.read a)) ∧
    (getFramebuffer s).length = 2048 ∧
    (∀ (x : Fin 64) (y : Fin 32), (getFramebuffer s)[x.val + y.val * 64]? = some (s.cell x y))

/-- `ClearFramebuffer()` sets every cell to 0 in any state and changes nothing else (R255, D17); the latch
takes a key 0 to 15 or none, fails outside and is then unchanged (R250, D23); overlapping operations are
refused (R246, R257). -/
def Obligations.HostBoundaryContracts : Prop :=
  (∀ s : State, (∀ x y, (clearFramebuffer s).cell x y = false) ∧
    ChangesOnly [.screen] s (clearFramebuffer s)) ∧
  (∀ (l : Latch) (k : Nat),
    (k < 16 → ((l.afterPress (some k)).read).map Fin.val = some k) ∧
    (16 ≤ k → l.press (some k) = .error .invalidKeyCode ∧ l.afterPress (some k) = l) ∧
    l.release = .ok none ∧ l.afterPress none = none) ∧
  ∀ (a b : HostOp) (rest : List HostOp) (s : State),
    hostCall (a :: b :: rest) s = .refused .concurrentUse
end

