-- ==== Sys2Proof/Laws/State.lean ====
section
/-! SUPPORT. One lemma per field per named update of the state, and the reads of `V`, `S` and `cell` over
them, so that no later proof unfolds a record update. -/

namespace Sys2Proof.Machine

@[simp] theorem State.setV_v (s : State) (x : Reg) (b : Byte) :
    (s.setV x b).v = s.v.set x b := rfl
@[simp] theorem State.setV_i (s : State) (x : Reg) (b : Byte) :
    (s.setV x b).i = s.i := rfl
@[simp] theorem State.setV_pc (s : State) (x : Reg) (b : Byte) :
    (s.setV x b).pc = s.pc := rfl
@[simp] theorem State.setV_stack (s : State) (x : Reg) (b : Byte) :
    (s.setV x b).stack = s.stack := rfl
@[simp] theorem State.setV_sp (s : State) (x : Reg) (b : Byte) :
    (s.setV x b).sp = s.sp := rfl
@[simp] theorem State.setV_dt (s : State) (x : Reg) (b : Byte) :
    (s.setV x b).dt = s.dt := rfl
@[simp] theorem State.setV_st (s : State) (x : Reg) (b : Byte) :
    (s.setV x b).st = s.st := rfl
@[simp] theorem State.setV_mem (s : State) (x : Reg) (b : Byte) :
    (s.setV x b).mem = s.mem := rfl
@[simp] theorem State.setV_fb (s : State) (x : Reg) (b : Byte) :
    (s.setV x b).fb = s.fb := rfl
@[simp] theorem State.setV_snd (s : State) (x : Reg) (b : Byte) :
    (s.setV x b).snd = s.snd := rfl
@[simp] theorem State.setV_fault (s : State) (x : Reg) (b : Byte) :
    (s.setV x b).fault = s.fault := rfl
@[simp] theorem State.setV_signal (s : State) (x : Reg) (b : Byte) :
    (s.setV x b).signal = s.signal := rfl
@[simp] theorem State.setV_env (s : State) (x : Reg) (b : Byte) :
    (s.setV x b).env = s.env := rfl

@[simp] theorem State.setI_v (s : State) (a : Word) :
    (s.setI a).v = s.v := rfl
@[simp] theorem State.setI_i (s : State) (a : Word) :
    (s.setI a).i = a := rfl
@[simp] theorem State.setI_pc (s : State) (a : Word) :
    (s.setI a).pc = s.pc := rfl
@[simp] theorem State.setI_stack (s : State) (a : Word) :
    (s.setI a).stack = s.stack := rfl
@[simp] theorem State.setI_sp (s : State) (a : Word) :
    (s.setI a).sp = s.sp := rfl
@[simp] theorem State.setI_dt (s : State) (a : Word) :
    (s.setI a).dt = s.dt := rfl
@[simp] theorem State.setI_st (s : State) (a : Word) :
    (s.setI a).st = s.st := rfl
@[simp] theorem State.setI_mem (s : State) (a : Word) :
    (s.setI a).mem = s.mem := rfl
@[simp] theorem State.setI_fb (s : State) (a : Word) :
    (s.setI a).fb = s.fb := rfl
@[simp] theorem State.setI_snd (s : State) (a : Word) :
    (s.setI a).snd = s.snd := rfl
@[simp] theorem State.setI_fault (s : State) (a : Word) :
    (s.setI a).fault = s.fault := rfl
@[simp] theorem State.setI_signal (s : State) (a : Word) :
    (s.setI a).signal = s.signal := rfl
@[simp] theorem State.setI_env (s : State) (a : Word) :
    (s.setI a).env = s.env := rfl

@[simp] theorem State.setPC_v (s : State) (a : Word) :
    (s.setPC a).v = s.v := rfl
@[simp] theorem State.setPC_i (s : State) (a : Word) :
    (s.setPC a).i = s.i := rfl
@[simp] theorem State.setPC_pc (s : State) (a : Word) :
    (s.setPC a).pc = a := rfl
@[simp] theorem State.setPC_stack (s : State) (a : Word) :
    (s.setPC a).stack = s.stack := rfl
@[simp] theorem State.setPC_sp (s : State) (a : Word) :
    (s.setPC a).sp = s.sp := rfl
@[simp] theorem State.setPC_dt (s : State) (a : Word) :
    (s.setPC a).dt = s.dt := rfl
@[simp] theorem State.setPC_st (s : State) (a : Word) :
    (s.setPC a).st = s.st := rfl
@[simp] theorem State.setPC_mem (s : State) (a : Word) :
    (s.setPC a).mem = s.mem := rfl
@[simp] theorem State.setPC_fb (s : State) (a : Word) :
    (s.setPC a).fb = s.fb := rfl
@[simp] theorem State.setPC_snd (s : State) (a : Word) :
    (s.setPC a).snd = s.snd := rfl
@[simp] theorem State.setPC_fault (s : State) (a : Word) :
    (s.setPC a).fault = s.fault := rfl
@[simp] theorem State.setPC_signal (s : State) (a : Word) :
    (s.setPC a).signal = s.signal := rfl
@[simp] theorem State.setPC_env (s : State) (a : Word) :
    (s.setPC a).env = s.env := rfl

@[simp] theorem State.store_v (s : State) (a : Nat) (v : Byte) :
    (s.store a v).v = s.v := rfl
@[simp] theorem State.store_i (s : State) (a : Nat) (v : Byte) :
    (s.store a v).i = s.i := rfl
@[simp] theorem State.store_pc (s : State) (a : Nat) (v : Byte) :
    (s.store a v).pc = s.pc := rfl
@[simp] theorem State.store_stack (s : State) (a : Nat) (v : Byte) :
    (s.store a v).stack = s.stack := rfl
@[simp] theorem State.store_sp (s : State) (a : Nat) (v : Byte) :
    (s.store a v).sp = s.sp := rfl
@[simp] theorem State.store_dt (s : State) (a : Nat) (v : Byte) :
    (s.store a v).dt = s.dt := rfl
@[simp] theorem State.store_st (s : State) (a : Nat) (v : Byte) :
    (s.store a v).st = s.st := rfl
@[simp] theorem State.store_mem (s : State) (a : Nat) (v : Byte) :
    (s.store a v).mem = s.mem.write a v := rfl
@[simp] theorem State.store_fb (s : State) (a : Nat) (v : Byte) :
    (s.store a v).fb = s.fb := rfl
@[simp] theorem State.store_snd (s : State) (a : Nat) (v : Byte) :
    (s.store a v).snd = s.snd := rfl
@[simp] theorem State.store_fault (s : State) (a : Nat) (v : Byte) :
    (s.store a v).fault = s.fault := rfl
@[simp] theorem State.store_signal (s : State) (a : Nat) (v : Byte) :
    (s.store a v).signal = s.signal := rfl
@[simp] theorem State.store_env (s : State) (a : Nat) (v : Byte) :
    (s.store a v).env = s.env := rfl

@[simp] theorem State.setDT_v (s : State) (b : Byte) :
    (s.setDT b).v = s.v := rfl
@[simp] theorem State.setDT_i (s : State) (b : Byte) :
    (s.setDT b).i = s.i := rfl
@[simp] theorem State.setDT_pc (s : State) (b : Byte) :
    (s.setDT b).pc = s.pc := rfl
@[simp] theorem State.setDT_stack (s : State) (b : Byte) :
    (s.setDT b).stack = s.stack := rfl
@[simp] theorem State.setDT_sp (s : State) (b : Byte) :
    (s.setDT b).sp = s.sp := rfl
@[simp] theorem State.setDT_dt (s : State) (b : Byte) :
    (s.setDT b).dt = b := rfl
@[simp] theorem State.setDT_st (s : State) (b : Byte) :
    (s.setDT b).st = s.st := rfl
@[simp] theorem State.setDT_mem (s : State) (b : Byte) :
    (s.setDT b).mem = s.mem := rfl
@[simp] theorem State.setDT_fb (s : State) (b : Byte) :
    (s.setDT b).fb = s.fb := rfl
@[simp] theorem State.setDT_snd (s : State) (b : Byte) :
    (s.setDT b).snd = s.snd := rfl
@[simp] theorem State.setDT_fault (s : State) (b : Byte) :
    (s.setDT b).fault = s.fault := rfl
@[simp] theorem State.setDT_signal (s : State) (b : Byte) :
    (s.setDT b).signal = s.signal := rfl
@[simp] theorem State.setDT_env (s : State) (b : Byte) :
    (s.setDT b).env = s.env := rfl

@[simp] theorem State.setST_v (s : State) (b : Byte) :
    (s.setST b).v = s.v := rfl
@[simp] theorem State.setST_i (s : State) (b : Byte) :
    (s.setST b).i = s.i := rfl
@[simp] theorem State.setST_pc (s : State) (b : Byte) :
    (s.setST b).pc = s.pc := rfl
@[simp] theorem State.setST_stack (s : State) (b : Byte) :
    (s.setST b).stack = s.stack := rfl
@[simp] theorem State.setST_sp (s : State) (b : Byte) :
    (s.setST b).sp = s.sp := rfl
@[simp] theorem State.setST_dt (s : State) (b : Byte) :
    (s.setST b).dt = s.dt := rfl
@[simp] theorem State.setST_st (s : State) (b : Byte) :
    (s.setST b).st = b := rfl
@[simp] theorem State.setST_mem (s : State) (b : Byte) :
    (s.setST b).mem = s.mem := rfl
@[simp] theorem State.setST_fb (s : State) (b : Byte) :
    (s.setST b).fb = s.fb := rfl
@[simp] theorem State.setST_snd (s : State) (b : Byte) :
    (s.setST b).snd = s.snd := rfl
@[simp] theorem State.setST_fault (s : State) (b : Byte) :
    (s.setST b).fault = s.fault := rfl
@[simp] theorem State.setST_signal (s : State) (b : Byte) :
    (s.setST b).signal = s.signal := rfl
@[simp] theorem State.setST_env (s : State) (b : Byte) :
    (s.setST b).env = s.env := rfl

@[simp] theorem State.skipIf_v (s : State) (c : Bool) :
    (s.skipIf c).v = s.v := rfl
@[simp] theorem State.skipIf_i (s : State) (c : Bool) :
    (s.skipIf c).i = s.i := rfl
@[simp] theorem State.skipIf_pc (s : State) (c : Bool) :
    (s.skipIf c).pc = bif c then s.pc + 2 else s.pc := rfl
@[simp] theorem State.skipIf_stack (s : State) (c : Bool) :
    (s.skipIf c).stack = s.stack := rfl
@[simp] theorem State.skipIf_sp (s : State) (c : Bool) :
    (s.skipIf c).sp = s.sp := rfl
@[simp] theorem State.skipIf_dt (s : State) (c : Bool) :
    (s.skipIf c).dt = s.dt := rfl
@[simp] theorem State.skipIf_st (s : State) (c : Bool) :
    (s.skipIf c).st = s.st := rfl
@[simp] theorem State.skipIf_mem (s : State) (c : Bool) :
    (s.skipIf c).mem = s.mem := rfl
@[simp] theorem State.skipIf_fb (s : State) (c : Bool) :
    (s.skipIf c).fb = s.fb := rfl
@[simp] theorem State.skipIf_snd (s : State) (c : Bool) :
    (s.skipIf c).snd = s.snd := rfl
@[simp] theorem State.skipIf_fault (s : State) (c : Bool) :
    (s.skipIf c).fault = s.fault := rfl
@[simp] theorem State.skipIf_signal (s : State) (c : Bool) :
    (s.skipIf c).signal = s.signal := rfl
@[simp] theorem State.skipIf_env (s : State) (c : Bool) :
    (s.skipIf c).env = s.env := rfl

@[simp] theorem State.raise_v (s : State) (f : Fault) :
    (s.raise f).v = s.v := rfl
@[simp] theorem State.raise_i (s : State) (f : Fault) :
    (s.raise f).i = s.i := rfl
@[simp] theorem State.raise_pc (s : State) (f : Fault) :
    (s.raise f).pc = s.pc := rfl
@[simp] theorem State.raise_stack (s : State) (f : Fault) :
    (s.raise f).stack = s.stack := rfl
@[simp] theorem State.raise_sp (s : State) (f : Fault) :
    (s.raise f).sp = s.sp := rfl
@[simp] theorem State.raise_dt (s : State) (f : Fault) :
    (s.raise f).dt = s.dt := rfl
@[simp] theorem State.raise_st (s : State) (f : Fault) :
    (s.raise f).st = s.st := rfl
@[simp] theorem State.raise_mem (s : State) (f : Fault) :
    (s.raise f).mem = s.mem := rfl
@[simp] theorem State.raise_fb (s : State) (f : Fault) :
    (s.raise f).fb = s.fb := rfl
@[simp] theorem State.raise_snd (s : State) (f : Fault) :
    (s.raise f).snd = s.snd := rfl
@[simp] theorem State.raise_fault (s : State) (f : Fault) :
    (s.raise f).fault = some f := rfl
@[simp] theorem State.raise_signal (s : State) (f : Fault) :
    (s.raise f).signal = s.signal := rfl
@[simp] theorem State.raise_env (s : State) (f : Fault) :
    (s.raise f).env = s.env := rfl

@[simp] theorem State.afterKey_v (s : State) :
    (s.afterKey).v = s.v := rfl
@[simp] theorem State.afterKey_i (s : State) :
    (s.afterKey).i = s.i := rfl
@[simp] theorem State.afterKey_pc (s : State) :
    (s.afterKey).pc = s.pc := rfl
@[simp] theorem State.afterKey_stack (s : State) :
    (s.afterKey).stack = s.stack := rfl
@[simp] theorem State.afterKey_sp (s : State) :
    (s.afterKey).sp = s.sp := rfl
@[simp] theorem State.afterKey_dt (s : State) :
    (s.afterKey).dt = s.dt := rfl
@[simp] theorem State.afterKey_st (s : State) :
    (s.afterKey).st = s.st := rfl
@[simp] theorem State.afterKey_mem (s : State) :
    (s.afterKey).mem = s.mem := rfl
@[simp] theorem State.afterKey_fb (s : State) :
    (s.afterKey).fb = s.fb := rfl
@[simp] theorem State.afterKey_snd (s : State) :
    (s.afterKey).snd = s.snd := rfl
@[simp] theorem State.afterKey_fault (s : State) :
    (s.afterKey).fault = s.fault := rfl
@[simp] theorem State.afterKey_signal (s : State) :
    (s.afterKey).signal = s.signal := rfl
@[simp] theorem State.afterKey_env (s : State) :
    (s.afterKey).env = s.env.afterKey := rfl

@[simp] theorem State.afterRand_v (s : State) :
    (s.afterRand).v = s.v := rfl
@[simp] theorem State.afterRand_i (s : State) :
    (s.afterRand).i = s.i := rfl
@[simp] theorem State.afterRand_pc (s : State) :
    (s.afterRand).pc = s.pc := rfl
@[simp] theorem State.afterRand_stack (s : State) :
    (s.afterRand).stack = s.stack := rfl
@[simp] theorem State.afterRand_sp (s : State) :
    (s.afterRand).sp = s.sp := rfl
@[simp] theorem State.afterRand_dt (s : State) :
    (s.afterRand).dt = s.dt := rfl
@[simp] theorem State.afterRand_st (s : State) :
    (s.afterRand).st = s.st := rfl
@[simp] theorem State.afterRand_mem (s : State) :
    (s.afterRand).mem = s.mem := rfl
@[simp] theorem State.afterRand_fb (s : State) :
    (s.afterRand).fb = s.fb := rfl
@[simp] theorem State.afterRand_snd (s : State) :
    (s.afterRand).snd = s.snd := rfl
@[simp] theorem State.afterRand_fault (s : State) :
    (s.afterRand).fault = s.fault := rfl
@[simp] theorem State.afterRand_signal (s : State) :
    (s.afterRand).signal = s.signal := rfl
@[simp] theorem State.afterRand_env (s : State) :
    (s.afterRand).env = s.env.afterRand := rfl

@[simp] theorem State.clearCells_v (s : State) :
    (s.clearCells).v = s.v := rfl
@[simp] theorem State.clearCells_i (s : State) :
    (s.clearCells).i = s.i := rfl
@[simp] theorem State.clearCells_pc (s : State) :
    (s.clearCells).pc = s.pc := rfl
@[simp] theorem State.clearCells_stack (s : State) :
    (s.clearCells).stack = s.stack := rfl
@[simp] theorem State.clearCells_sp (s : State) :
    (s.clearCells).sp = s.sp := rfl
@[simp] theorem State.clearCells_dt (s : State) :
    (s.clearCells).dt = s.dt := rfl
@[simp] theorem State.clearCells_st (s : State) :
    (s.clearCells).st = s.st := rfl
@[simp] theorem State.clearCells_mem (s : State) :
    (s.clearCells).mem = s.mem := rfl
@[simp] theorem State.clearCells_fb (s : State) :
    (s.clearCells).fb = Vector.replicate 32 (Vector.replicate 64 false) := rfl
@[simp] theorem State.clearCells_snd (s : State) :
    (s.clearCells).snd = s.snd := rfl
@[simp] theorem State.clearCells_fault (s : State) :
    (s.clearCells).fault = s.fault := rfl
@[simp] theorem State.clearCells_signal (s : State) :
    (s.clearCells).signal = s.signal := rfl
@[simp] theorem State.clearCells_env (s : State) :
    (s.clearCells).env = s.env := rfl

@[simp] theorem State.setCell_v (s : State) (x : Fin 64) (y : Fin 32) (b : Bool) :
    (s.setCell x y b).v = s.v := rfl
@[simp] theorem State.setCell_i (s : State) (x : Fin 64) (y : Fin 32) (b : Bool) :
    (s.setCell x y b).i = s.i := rfl
@[simp] theorem State.setCell_pc (s : State) (x : Fin 64) (y : Fin 32) (b : Bool) :
    (s.setCell x y b).pc = s.pc := rfl
@[simp] theorem State.setCell_stack (s : State) (x : Fin 64) (y : Fin 32) (b : Bool) :
    (s.setCell x y b).stack = s.stack := rfl
@[simp] theorem State.setCell_sp (s : State) (x : Fin 64) (y : Fin 32) (b : Bool) :
    (s.setCell x y b).sp = s.sp := rfl
@[simp] theorem State.setCell_dt (s : State) (x : Fin 64) (y : Fin 32) (b : Bool) :
    (s.setCell x y b).dt = s.dt := rfl
@[simp] theorem State.setCell_st (s : State) (x : Fin 64) (y : Fin 32) (b : Bool) :
    (s.setCell x y b).st = s.st := rfl
@[simp] theorem State.setCell_mem (s : State) (x : Fin 64) (y : Fin 32) (b : Bool) :
    (s.setCell x y b).mem = s.mem := rfl
@[simp] theorem State.setCell_fb (s : State) (x : Fin 64) (y : Fin 32) (b : Bool) :
    (s.setCell x y b).fb = s.fb.set y (s.fb[y].set x b) := rfl
@[simp] theorem State.setCell_snd (s : State) (x : Fin 64) (y : Fin 32) (b : Bool) :
    (s.setCell x y b).snd = s.snd := rfl
@[simp] theorem State.setCell_fault (s : State) (x : Fin 64) (y : Fin 32) (b : Bool) :
    (s.setCell x y b).fault = s.fault := rfl
@[simp] theorem State.setCell_signal (s : State) (x : Fin 64) (y : Fin 32) (b : Bool) :
    (s.setCell x y b).signal = s.signal := rfl
@[simp] theorem State.setCell_env (s : State) (x : Fin 64) (y : Fin 32) (b : Bool) :
    (s.setCell x y b).env = s.env := rfl

@[simp] theorem advance_v (s : State) :
    (advance s).v = s.v := rfl
@[simp] theorem advance_i (s : State) :
    (advance s).i = s.i := rfl
@[simp] theorem advance_pc (s : State) :
    (advance s).pc = s.pc + 2 := rfl
@[simp] theorem advance_stack (s : State) :
    (advance s).stack = s.stack := rfl
@[simp] theorem advance_sp (s : State) :
    (advance s).sp = s.sp := rfl
@[simp] theorem advance_dt (s : State) :
    (advance s).dt = s.dt := rfl
@[simp] theorem advance_st (s : State) :
    (advance s).st = s.st := rfl
@[simp] theorem advance_mem (s : State) :
    (advance s).mem = s.mem := rfl
@[simp] theorem advance_fb (s : State) :
    (advance s).fb = s.fb := rfl
@[simp] theorem advance_snd (s : State) :
    (advance s).snd = s.snd := rfl
@[simp] theorem advance_fault (s : State) :
    (advance s).fault = s.fault := rfl
@[simp] theorem advance_signal (s : State) :
    (advance s).signal = s.signal := rfl
@[simp] theorem advance_env (s : State) :
    (advance s).env = s.env := rfl

@[simp] theorem beginCycle_v (s : State) :
    (beginCycle s).v = s.v := rfl
@[simp] theorem beginCycle_i (s : State) :
    (beginCycle s).i = s.i := rfl
@[simp] theorem beginCycle_pc (s : State) :
    (beginCycle s).pc = s.pc := rfl
@[simp] theorem beginCycle_stack (s : State) :
    (beginCycle s).stack = s.stack := rfl
@[simp] theorem beginCycle_sp (s : State) :
    (beginCycle s).sp = s.sp := rfl
@[simp] theorem beginCycle_dt (s : State) :
    (beginCycle s).dt = s.dt := rfl
@[simp] theorem beginCycle_st (s : State) :
    (beginCycle s).st = s.st := rfl
@[simp] theorem beginCycle_mem (s : State) :
    (beginCycle s).mem = s.mem := rfl
@[simp] theorem beginCycle_fb (s : State) :
    (beginCycle s).fb = s.fb := rfl
@[simp] theorem beginCycle_snd (s : State) :
    (beginCycle s).snd = s.snd := rfl
@[simp] theorem beginCycle_fault (s : State) :
    (beginCycle s).fault = s.fault := rfl
@[simp] theorem beginCycle_signal (s : State) :
    (beginCycle s).signal = none := rfl
@[simp] theorem beginCycle_env (s : State) :
    (beginCycle s).env = s.env := rfl

@[simp] theorem timerTick_v (s : State) :
    (timerTick s).v = s.v := rfl
@[simp] theorem timerTick_i (s : State) :
    (timerTick s).i = s.i := rfl
@[simp] theorem timerTick_pc (s : State) :
    (timerTick s).pc = s.pc := rfl
@[simp] theorem timerTick_stack (s : State) :
    (timerTick s).stack = s.stack := rfl
@[simp] theorem timerTick_sp (s : State) :
    (timerTick s).sp = s.sp := rfl
@[simp] theorem timerTick_dt (s : State) :
    (timerTick s).dt = countDown s.dt := rfl
@[simp] theorem timerTick_st (s : State) :
    (timerTick s).st = countDown s.st := rfl
@[simp] theorem timerTick_mem (s : State) :
    (timerTick s).mem = s.mem := rfl
@[simp] theorem timerTick_fb (s : State) :
    (timerTick s).fb = s.fb := rfl
@[simp] theorem timerTick_snd (s : State) :
    (timerTick s).snd = soundFor s.st := rfl
@[simp] theorem timerTick_fault (s : State) :
    (timerTick s).fault = s.fault := rfl
@[simp] theorem timerTick_signal (s : State) :
    (timerTick s).signal = audioEdge s.snd (soundFor s.st) := rfl
@[simp] theorem timerTick_env (s : State) :
    (timerTick s).env = s.env := rfl

@[simp] theorem tickStage_v (s : State) :
    (tickStage s).v = s.v := rfl
@[simp] theorem tickStage_i (s : State) :
    (tickStage s).i = s.i := rfl
@[simp] theorem tickStage_pc (s : State) :
    (tickStage s).pc = s.pc := rfl
@[simp] theorem tickStage_stack (s : State) :
    (tickStage s).stack = s.stack := rfl
@[simp] theorem tickStage_sp (s : State) :
    (tickStage s).sp = s.sp := rfl
@[simp] theorem tickStage_dt (s : State) :
    (tickStage s).dt = bif s.env.tick then countDown s.dt else s.dt := rfl
@[simp] theorem tickStage_st (s : State) :
    (tickStage s).st = bif s.env.tick then countDown s.st else s.st := rfl
@[simp] theorem tickStage_mem (s : State) :
    (tickStage s).mem = s.mem := rfl
@[simp] theorem tickStage_fb (s : State) :
    (tickStage s).fb = s.fb := rfl
@[simp] theorem tickStage_snd (s : State) :
    (tickStage s).snd = bif s.env.tick then soundFor s.st else s.snd := rfl
@[simp] theorem tickStage_fault (s : State) :
    (tickStage s).fault = s.fault := rfl
@[simp] theorem tickStage_signal (s : State) :
    (tickStage s).signal = bif s.env.tick then audioEdge s.snd (soundFor s.st) else s.signal := rfl
@[simp] theorem tickStage_env (s : State) :
    (tickStage s).env = s.env.afterTick := rfl

/-- VF is register 15: one home, so every lemma of `setV` serves the flag (R22). -/
@[simp] theorem State.setVF_eq (s : State) (b : Byte) : s.setVF b = s.setV 15 b := rfl

@[simp] theorem State.raiseUnsupported_eq (s : State) (w : Word) :
    s.raiseUnsupported w = s.raise (.unsupportedInstruction w) := rfl

/-- The register written reads as written and every other one as before (R20). -/
theorem State.V_setV (s : State) (x r : Reg) (b : Byte) :
    (s.setV x b).V r = if x = r then b else s.V r := by
  simp only [State.V, State.setV, Fin.getElem_fin, Vector.getElem_set, Fin.ext_iff]

@[simp] theorem State.V_setV_self (s : State) (x : Reg) (b : Byte) : (s.setV x b).V x = b := by
  simp [State.V_setV]

theorem State.V_setV_ne (s : State) {x r : Reg} (b : Byte) (h : r ≠ x) :
    (s.setV x b).V r = s.V r := by
  simp [State.V_setV, Ne.symm h]

/-- The cell written reads as written and every other one as before (R32). -/
theorem State.cell_setCell (s : State) (x cx : Fin 64) (y cy : Fin 32) (b : Bool) :
    (s.setCell x y b).cell cx cy = if x = cx ∧ y = cy then b else s.cell cx cy := by
  simp only [State.cell, State.setCell, Fin.getElem_fin, Vector.getElem_set, Fin.ext_iff]
  by_cases hy : y.val = cy.val
  · by_cases hx : x.val = cx.val <;> simp [hx, hy]
  · simp [hy]

@[simp] theorem State.cell_clearCells (s : State) (x : Fin 64) (y : Fin 32) :
    s.clearCells.cell x y = false := by
  simp [State.cell, State.clearCells]

@[simp] theorem State.V_setI (s : State) (a : Word) (r : Reg) :
    (s.setI a).V r = s.V r := rfl
@[simp] theorem State.V_setPC (s : State) (a : Word) (r : Reg) :
    (s.setPC a).V r = s.V r := rfl
@[simp] theorem State.V_store (s : State) (a : Nat) (v : Byte) (r : Reg) :
    (s.store a v).V r = s.V r := rfl
@[simp] theorem State.V_setDT (s : State) (b : Byte) (r : Reg) :
    (s.setDT b).V r = s.V r := rfl
@[simp] theorem State.V_setST (s : State) (b : Byte) (r : Reg) :
    (s.setST b).V r = s.V r := rfl
@[simp] theorem State.V_skipIf (s : State) (c : Bool) (r : Reg) :
    (s.skipIf c).V r = s.V r := rfl
@[simp] theorem State.V_raise (s : State) (f : Fault) (r : Reg) :
    (s.raise f).V r = s.V r := rfl
@[simp] theorem State.V_afterKey (s : State) (r : Reg) :
    (s.afterKey).V r = s.V r := rfl
@[simp] theorem State.V_afterRand (s : State) (r : Reg) :
    (s.afterRand).V r = s.V r := rfl
@[simp] theorem State.V_clearCells (s : State) (r : Reg) :
    (s.clearCells).V r = s.V r := rfl
@[simp] theorem State.V_setCell (s : State) (x : Fin 64) (y : Fin 32) (b : Bool) (r : Reg) :
    (s.setCell x y b).V r = s.V r := rfl
@[simp] theorem State.V_advance (s : State) (r : Reg) : (advance s).V r = s.V r := rfl
@[simp] theorem State.V_beginCycle (s : State) (r : Reg) : (beginCycle s).V r = s.V r := rfl
@[simp] theorem State.V_timerTick (s : State) (r : Reg) : (timerTick s).V r = s.V r := rfl
@[simp] theorem State.V_tickStage (s : State) (r : Reg) : (tickStage s).V r = s.V r := rfl

@[simp] theorem State.S_setV (s : State) (x : Reg) (b : Byte) (k : Fin 16) :
    (s.setV x b).S k = s.S k := rfl
@[simp] theorem State.S_setI (s : State) (a : Word) (k : Fin 16) :
    (s.setI a).S k = s.S k := rfl
@[simp] theorem State.S_setPC (s : State) (a : Word) (k : Fin 16) :
    (s.setPC a).S k = s.S k := rfl
@[simp] theorem State.S_store (s : State) (a : Nat) (v : Byte) (k : Fin 16) :
    (s.store a v).S k = s.S k := rfl
@[simp] theorem State.S_setDT (s : State) (b : Byte) (k : Fin 16) :
    (s.setDT b).S k = s.S k := rfl
@[simp] theorem State.S_setST (s : State) (b : Byte) (k : Fin 16) :
    (s.setST b).S k = s.S k := rfl
@[simp] theorem State.S_skipIf (s : State) (c : Bool) (k : Fin 16) :
    (s.skipIf c).S k = s.S k := rfl
@[simp] theorem State.S_raise (s : State) (f : Fault) (k : Fin 16) :
    (s.raise f).S k = s.S k := rfl
@[simp] theorem State.S_afterKey (s : State) (k : Fin 16) :
    (s.afterKey).S k = s.S k := rfl
@[simp] theorem State.S_afterRand (s : State) (k : Fin 16) :
    (s.afterRand).S k = s.S k := rfl
@[simp] theorem State.S_clearCells (s : State) (k : Fin 16) :
    (s.clearCells).S k = s.S k := rfl
@[simp] theorem State.S_setCell (s : State) (x : Fin 64) (y : Fin 32) (b : Bool) (k : Fin 16) :
    (s.setCell x y b).S k = s.S k := rfl
@[simp] theorem State.S_advance (s : State) (k : Fin 16) : (advance s).S k = s.S k := rfl
@[simp] theorem State.S_beginCycle (s : State) (k : Fin 16) : (beginCycle s).S k = s.S k := rfl
@[simp] theorem State.S_timerTick (s : State) (k : Fin 16) : (timerTick s).S k = s.S k := rfl
@[simp] theorem State.S_tickStage (s : State) (k : Fin 16) : (tickStage s).S k = s.S k := rfl

@[simp] theorem State.cell_setV (s : State) (x : Reg) (b : Byte) (cx : Fin 64) (cy : Fin 32) :
    (s.setV x b).cell cx cy = s.cell cx cy := rfl
@[simp] theorem State.cell_setI (s : State) (a : Word) (cx : Fin 64) (cy : Fin 32) :
    (s.setI a).cell cx cy = s.cell cx cy := rfl
@[simp] theorem State.cell_setPC (s : State) (a : Word) (cx : Fin 64) (cy : Fin 32) :
    (s.setPC a).cell cx cy = s.cell cx cy := rfl
@[simp] theorem State.cell_store (s : State) (a : Nat) (v : Byte) (cx : Fin 64) (cy : Fin 32) :
    (s.store a v).cell cx cy = s.cell cx cy := rfl
@[simp] theorem State.cell_setDT (s : State) (b : Byte) (cx : Fin 64) (cy : Fin 32) :
    (s.setDT b).cell cx cy = s.cell cx cy := rfl
@[simp] theorem State.cell_setST (s : State) (b : Byte) (cx : Fin 64) (cy : Fin 32) :
    (s.setST b).cell cx cy = s.cell cx cy := rfl
@[simp] theorem State.cell_skipIf (s : State) (c : Bool) (cx : Fin 64) (cy : Fin 32) :
    (s.skipIf c).cell cx cy = s.cell cx cy := rfl
@[simp] theorem State.cell_raise (s : State) (f : Fault) (cx : Fin 64) (cy : Fin 32) :
    (s.raise f).cell cx cy = s.cell cx cy := rfl
@[simp] theorem State.cell_afterKey (s : State) (cx : Fin 64) (cy : Fin 32) :
    (s.afterKey).cell cx cy = s.cell cx cy := rfl
@[simp] theorem State.cell_afterRand (s : State) (cx : Fin 64) (cy : Fin 32) :
    (s.afterRand).cell cx cy = s.cell cx cy := rfl
@[simp] theorem State.cell_advance (s : State) (cx : Fin 64) (cy : Fin 32) : (advance s).cell cx cy = s.cell cx cy := rfl
@[simp] theorem State.cell_beginCycle (s : State) (cx : Fin 64) (cy : Fin 32) : (beginCycle s).cell cx cy = s.cell cx cy := rfl
@[simp] theorem State.cell_timerTick (s : State) (cx : Fin 64) (cy : Fin 32) : (timerTick s).cell cx cy = s.cell cx cy := rfl
@[simp] theorem State.cell_tickStage (s : State) (cx : Fin 64) (cy : Fin 32) : (tickStage s).cell cx cy = s.cell cx cy := rfl

end Sys2Proof.Machine
end

