-- ==== Sys2Proof/Laws/Memory.lean ====
section
/-! SUPPORT. Memory: reads over writes, and the canonical form that every memory operation keeps. -/

namespace Sys2Proof.Machine

/-- An address below every listed one reads as unlisted. -/
theorem Memory.read_of_lt {m : Memory} {a : Nat} (h : ∀ c ∈ m, a < c.1) :
    m.read a = Memory.unlisted a := by
  induction m with
  | nil => rfl
  | cons c m ih =>
    obtain ⟨b, w⟩ := c
    have hb : a < b := h (b, w) (by simp)
    simp only [Memory.read, if_neg (Nat.ne_of_lt hb)]
    exact ih fun d hd => h d (by simp [hd])

/-- Putting a cell in front of a memory above it: that address reads as given, every other as before. -/
theorem Memory.read_consCell {m : Memory} {a : Nat} {v : Byte} (h : ∀ c ∈ m, a < c.1) (b : Nat) :
    (Memory.consCell a v m).read b = if b = a then v else m.read b := by
  unfold Memory.consCell
  split
  · rename_i hv
    split
    · rename_i hb
      rw [hb, Memory.read_of_lt h, hv]
    · rfl
  · simp only [Memory.read]

/-- Read after write (R61): the address written reads as written, every other as before. -/
theorem Memory.read_write {m : Memory} (hm : m.wf) (a b : Nat) (v : Byte) :
    (m.write a v).read b = if b = a then v else m.read b := by
  obtain ⟨hs, hb⟩ := hm
  induction m with
  | nil => exact Memory.read_consCell (by simp) b
  | cons c m ih =>
    obtain ⟨d, w⟩ := c
    rw [List.pairwise_cons] at hs
    have hlt : ∀ e ∈ m, d < e.1 := fun e he => hs.1 e he
    have ih := ih hs.2 fun e he => hb e (by simp [he])
    simp only [Memory.write]
    split
    · rename_i had
      refine Memory.read_consCell ?_ b
      rintro e he
      rcases List.mem_cons.1 he with rfl | he
      · exact had
      · exact Nat.lt_trans had (hlt e he)
    · split
      · rename_i _ had
        subst had
        rw [Memory.read_consCell hlt b]
        split
        · rfl
        · rename_i hne
          simp [Memory.read, hne]
      · rename_i had hne
        simp only [Memory.read, ih]
        split
        · rename_i hbd
          simp [hbd, Ne.symm hne]
        · rfl

/-- A cell in front of a canonical memory above it keeps the form. -/
theorem Memory.wf_consCell {m : Memory} {a : Nat} {v : Byte} (ha : a < Config.memorySize)
    (hm : m.wf) (h : ∀ c ∈ m, a < c.1) : (Memory.consCell a v m).wf := by
  unfold Memory.consCell
  split
  · exact hm
  · rename_i hv
    refine ⟨List.pairwise_cons.2 ⟨h, hm.1⟩, fun c hc => ?_⟩
    rcases List.mem_cons.1 hc with rfl | hc
    · exact ⟨ha, hv⟩
    · exact hm.2 c hc

/-- The addresses a write can list are the old ones and the one written. -/
theorem Memory.mem_consCell {m : Memory} {a : Nat} {v : Byte} {c : Host.Cell}
    (h : c ∈ Memory.consCell a v m) : c ∈ m ∨ c.1 = a := by
  unfold Memory.consCell at h
  split at h
  · exact .inl h
  · rcases List.mem_cons.1 h with rfl | h
    · exact .inr rfl
    · exact .inl h

theorem Memory.mem_write {m : Memory} {a : Nat} {v : Byte} {c : Host.Cell}
    (h : c ∈ m.write a v) : c ∈ m ∨ c.1 = a := by
  induction m with
  | nil => exact Memory.mem_consCell h
  | cons d m ih =>
    obtain ⟨b, w⟩ := d
    simp only [Memory.write] at h
    split at h
    · exact Memory.mem_consCell h
    · split at h
      · exact (Memory.mem_consCell h).imp_left (List.mem_cons_of_mem _)
      · rcases List.mem_cons.1 h with rfl | h
        · exact .inl (by simp)
        · exact (ih h).imp_left (List.mem_cons_of_mem _)

/-- A write inside memory keeps the canonical form. -/
theorem Memory.wf_write {m : Memory} (hm : m.wf) {a : Nat} (ha : a < Config.memorySize) (v : Byte) :
    (m.write a v).wf := by
  obtain ⟨hs, hb⟩ := hm
  induction m with
  | nil => exact Memory.wf_consCell ha ⟨.nil, by simp⟩ (by simp)
  | cons c m ih =>
    obtain ⟨d, w⟩ := c
    have hs' := List.pairwise_cons.1 hs
    have hb' : ∀ e ∈ m, e.1 < Config.memorySize ∧ e.2 ≠ Memory.unlisted e.1 :=
      fun e he => hb e (by simp [he])
    simp only [Memory.write]
    split
    · rename_i had
      refine Memory.wf_consCell ha ⟨hs, hb⟩ fun e he => ?_
      rcases List.mem_cons.1 he with rfl | he
      · exact had
      · exact Nat.lt_trans had (hs'.1 e he)
    · split
      · rename_i _ had
        subst had
        exact Memory.wf_consCell ha ⟨hs'.2, hb'⟩ hs'.1
      · rename_i hnlt hne
        have hw := ih hs'.2 hb'
        refine ⟨List.pairwise_cons.2 ⟨fun e he => ?_, hw.1⟩, fun e he => ?_⟩
        · rcases Memory.mem_write he with he | he
          · exact hs'.1 e he
          · rw [he]; exact Nat.lt_of_le_of_ne (Nat.le_of_not_lt hnlt) (Ne.symm hne)
        · rcases List.mem_cons.1 he with rfl | he
          · exact hb (d, w) (by simp)
          · exact hw.2 e he

/-- The cells of a loaded memory lie at or above its first address and below its end. -/
theorem Memory.mem_load {vs : List Byte} {a : Nat} {c : Host.Cell} (h : c ∈ Memory.load a vs) :
    a ≤ c.1 ∧ c.1 < a + vs.length := by
  induction vs generalizing a with
  | nil => simp [Memory.load] at h
  | cons v vs ih =>
    simp only [Memory.load] at h
    rcases Memory.mem_consCell h with h | h
    · have := ih h
      simp only [List.length_cons]
      omega
    · simp only [List.length_cons]
      omega

/-- A loaded memory is canonical when it fits (R270, R271). -/
theorem Memory.wf_load {vs : List Byte} {a : Nat} (h : a + vs.length ≤ Config.memorySize) :
    (Memory.load a vs).wf := by
  induction vs generalizing a with
  | nil => exact ⟨.nil, by simp [Memory.load]⟩
  | cons v vs ih =>
    simp only [List.length_cons] at h
    exact Memory.wf_consCell (by omega) (ih (by omega)) fun c hc => by
      have := (Memory.mem_load hc).1
      omega

/-- A loaded memory reads as the bytes it was given (R271). -/
theorem Memory.read_load {vs : List Byte} {a : Nat} (k : Nat) (hk : k < vs.length) :
    (Memory.load a vs).read (a + k) = vs[k] := by
  induction vs generalizing a k with
  | nil => simp at hk
  | cons v vs ih =>
    have habove : ∀ c ∈ Memory.load (a + 1) vs, a < c.1 := fun c hc => (Memory.mem_load hc).1
    simp only [Memory.load]
    rw [Memory.read_consCell habove]
    cases k with
    | zero => simp
    | succ k =>
      have : a + (k + 1) = a + 1 + k := by omega
      rw [if_neg (by omega), this, ih k (by simpa using hk)]
      rfl

/-- Bytes that are what their addresses read as unlisted leave nothing to list. -/
theorem Memory.load_eq_nil {vs : List Byte} {a : Nat}
    (h : ∀ k, (hk : k < vs.length) → vs[k] = Memory.unlisted (a + k)) : Memory.load a vs = [] := by
  induction vs generalizing a with
  | nil => rfl
  | cons v vs ih =>
    have h0 : v = Memory.unlisted a := h 0 (by simp)
    rw [Memory.load, ih fun k hk => ?_, Memory.consCell, if_pos h0]
    have := h (k + 1) (by simpa using hk)
    rw [show a + 1 + k = a + (k + 1) by omega]
    simpa using this

/-- `State.reset`'s memory is canonical. -/
theorem Memory.wf_reset : State.reset.mem.wf := ⟨.nil, by simp [State.reset]⟩

end Sys2Proof.Machine
end

