-- ==== Sys2Proof/Laws/Ops.lean ====
section
/-! SUPPORT. One lemma per shared operation that says what it can do: memory primitives, the stack, the fetch,
framebuffer rows and the rows of DXYN. -/

namespace Sys2Proof.Machine

@[simp] theorem Flow.bind_ok {α β : Type} (a : α) (s : State) (f : α → State → Flow β) :
    (Flow.ok a s).bind f = f a s := rfl

@[simp] theorem Flow.bind_raised {α β : Type} (s : State) (f : α → State → Flow β) :
    (Flow.raised s).bind f = .raised s := rfl

@[simp] theorem Flow.state_ok {α : Type} (a : α) (s : State) : (Flow.ok a s).state = s := rfl

@[simp] theorem Flow.state_raised {α : Type} (s : State) :
    (Flow.raised s : Flow α).state = s := rfl

/-! ### Memory primitives (R10) -/

theorem memRead_ok {a : Nat} (h : a < Config.memorySize) (s : State) :
    memRead a s = .ok (s.mem.read a) s := by simp [memRead, h]

theorem memRead_raised {a : Nat} (h : Config.memorySize ≤ a) (s : State) :
    memRead a s = .raised (s.raise (.memoryOutOfRange a)) := by
  simp [memRead, Nat.not_lt.2 h]

theorem memWrite_ok {a : Nat} (h : a < Config.memorySize) (v : Byte) (s : State) :
    memWrite a v s = .ok () (s.store a v) := by simp [memWrite, h]

theorem memWrite_raised {a : Nat} (h : Config.memorySize ≤ a) (v : Byte) (s : State) :
    memWrite a v s = .raised (s.raise (.memoryOutOfRange a)) := by
  simp [memWrite, Nat.not_lt.2 h]

/-! ### Stack (R12) -/

/-- A push with room: the entry at SP takes the value, every other one stays, SP rises by one. -/
theorem push_ok {s : State} (h : s.sp.val < 16) (a : Word) :
    ∃ t, push a s = .ok () t ∧ t.sp.val = s.sp.val + 1 ∧
      (∀ k : Fin 16, t.S k = if k.val = s.sp.val then a else s.S k) ∧
      t = { s with stack := t.stack, sp := t.sp } := by
  refine ⟨_, dif_pos h, rfl, fun k => ?_, rfl⟩
  simp only [State.S, Fin.getElem_fin, Vector.getElem_set, eq_comm]

theorem push_raised {s : State} (h : ¬ s.sp.val < 16) (a : Word) :
    push a s = .raised (s.raise (.stackOverflow s.sp.val)) := dif_neg h

/-- A pop of a nonempty stack: SP falls by one and the entry it then names is the value. -/
theorem pop_ok {s : State} (k : Nat) (hk : k < 16) (h : s.sp.val = k + 1) :
    ∃ t, pop s = .ok (s.S ⟨k, hk⟩) t ∧ t.sp.val = k ∧ t = { s with sp := t.sp } := by
  obtain ⟨v, i, pc, stack, sp, dt, st, mem, fb, snd, fault, signal, env⟩ := s
  obtain ⟨n, hn⟩ := sp
  obtain rfl : n = k + 1 := h
  exact ⟨_, rfl, rfl, rfl⟩

theorem pop_raised {s : State} (h : s.sp.val = 0) :
    pop s = .raised (s.raise (.stackUnderflow 0)) := by
  obtain ⟨v, i, pc, stack, sp, dt, st, mem, fb, snd, fault, signal, env⟩ := s
  obtain ⟨n, hn⟩ := sp
  obtain rfl : n = 0 := h
  rfl

/-! ### Fetch (R73) -/

theorem fetch_ok {s : State} (h : s.pc.toNat + 1 < 4096) :
    fetch s = .ok (wordOfBytes (s.mem.read s.pc.toNat) (s.mem.read (s.pc.toNat + 1))) s := by
  rw [fetch, memRead_ok (show _ < Config.memorySize from Nat.lt_of_succ_lt h), Flow.bind_ok,
    memRead_ok (show _ < Config.memorySize from h), Flow.bind_ok]

theorem fetch_raised {s : State} (h : ¬ s.pc.toNat + 1 < 4096) :
    fetch s = .raised (s.raise (.memoryOutOfRange (max s.pc.toNat 4096))) := by
  by_cases hp : s.pc.toNat < 4096
  · have : s.pc.toNat = 4095 := by omega
    rw [fetch, memRead_ok (show _ < Config.memorySize from hp), Flow.bind_ok,
      memRead_raised (by rw [this]; decide), Flow.bind_raised, this]
    rfl
  · have hp : 4096 ≤ s.pc.toNat := Nat.le_of_not_lt hp
    rw [fetch, memRead_raised (show Config.memorySize ≤ _ from hp), Flow.bind_raised,
      Nat.max_eq_left hp]

/-! ### Framebuffer rows (R191) -/

/-- Eight bits summed at their places read back, the first the most significant. -/
theorem getLsbD_packed : ∀ c0 c1 c2 c3 c4 c5 c6 c7 : Bool, ∀ j : Fin 8,
    ((0 : Byte) + (bif c0 then 1#8 <<< (7 - 0) else 0) + (bif c1 then 1#8 <<< (7 - 1) else 0) +
      (bif c2 then 1#8 <<< (7 - 2) else 0) + (bif c3 then 1#8 <<< (7 - 3) else 0) +
      (bif c4 then 1#8 <<< (7 - 4) else 0) + (bif c5 then 1#8 <<< (7 - 5) else 0) +
      (bif c6 then 1#8 <<< (7 - 6) else 0) + (bif c7 then 1#8 <<< (7 - 7) else 0)).getLsbD
        (7 - j.val) = #v[c0, c1, c2, c3, c4, c5, c6, c7][j] := by decide

/-- Bit `7 - b` of a read row is the cell `b` columns to the right, wrapping. -/
theorem getLsbD_readRow (x0 : Fin 64) (y : Fin 32) (s : State) (b : Nat) (hb : b < 8) :
    (readRow x0 y s).getLsbD (7 - b) = s.cell (columnAt x0 b) y := by
  have h8 : readRow x0 y s = 0 + rowBit x0 y s 0 + rowBit x0 y s 1 + rowBit x0 y s 2 +
      rowBit x0 y s 3 + rowBit x0 y s 4 + rowBit x0 y s 5 + rowBit x0 y s 6 + rowBit x0 y s 7 := rfl
  rw [h8]
  simp only [rowBit]
  generalize h0 : s.cell (columnAt x0 0) y = c0
  generalize h1 : s.cell (columnAt x0 1) y = c1
  generalize h2 : s.cell (columnAt x0 2) y = c2
  generalize h3 : s.cell (columnAt x0 3) y = c3
  generalize h4 : s.cell (columnAt x0 4) y = c4
  generalize h5 : s.cell (columnAt x0 5) y = c5
  generalize h6 : s.cell (columnAt x0 6) y = c6
  generalize h7 : s.cell (columnAt x0 7) y = c7
  rw [getLsbD_packed c0 c1 c2 c3 c4 c5 c6 c7 ⟨b, hb⟩]
  interval_cases b <;> simp [*]

/-- Writing a row changes the framebuffer alone. -/
theorem writeRow_eq (x0 : Fin 64) (y : Fin 32) (r : Byte) (s : State) :
    writeRow x0 y r s = { s with fb := (writeRow x0 y r s).fb } := by
  unfold writeRow
  generalize List.range 8 = l
  induction l generalizing s with
  | nil => rfl
  | cons b l ih => rw [List.foldl_cons, ih]; rfl

theorem columnAt_inj {x0 : Fin 64} {b c : Nat} (hb : b < 8) (hc : c < 8)
    (h : columnAt x0 b = columnAt x0 c) : b = c := by
  simp only [columnAt, Fin.ofNat, Fin.mk.injEq] at h
  omega

/-- Writing cells of one row left to right, seen at one cell. -/
theorem cell_foldl_setCell (x0 : Fin 64) (y : Fin 32) (f : Nat → Bool) (l : List Nat)
    (hl : ∀ b ∈ l, b < 8) (hd : l.Nodup) (s : State) (cx : Fin 64) (cy : Fin 32) :
    (l.foldl (fun s b => s.setCell (columnAt x0 b) y (f b)) s).cell cx cy =
      if cy = y then ((l.find? fun b => columnAt x0 b = cx).map f).getD (s.cell cx cy)
      else s.cell cx cy := by
  induction l generalizing s with
  | nil => simp
  | cons b l ih =>
    rw [List.nodup_cons] at hd
    rw [List.foldl_cons, ih (fun c hc => hl c (by simp [hc])) hd.2, State.cell_setCell]
    by_cases hy : cy = y
    · by_cases hx : columnAt x0 b = cx
      · have hnone : l.find? (fun b => decide (columnAt x0 b = cx)) = none := by
          rw [List.find?_eq_none]
          intro c hc hcx
          have : c = b := columnAt_inj (hl c (by simp [hc])) (hl b (by simp))
            ((of_decide_eq_true hcx).trans hx.symm)
          exact hd.1 (this ▸ hc)
        simp [hx, hy, hnone]
      · simp [hx, hy]
    · simp [hy, Ne.symm hy]

/-- A written row reads bit `7 - b` at the cell `b` columns to the right, wrapping. -/
theorem cell_writeRow_at (x0 : Fin 64) (y : Fin 32) (r : Byte) (s : State) (b : Nat) (hb : b < 8) :
    (writeRow x0 y r s).cell (columnAt x0 b) y = r.getLsbD (7 - b) := by
  have hl : ∀ c ∈ List.range 8, c < 8 := fun c hc => List.mem_range.1 hc
  rw [writeRow, cell_foldl_setCell x0 y (fun b => r.getLsbD (7 - b)) _ hl List.nodup_range,
    if_pos rfl]
  cases h : (List.range 8).find? (fun c => decide (columnAt x0 c = columnAt x0 b)) with
  | none =>
    rw [List.find?_eq_none] at h
    exact absurd (h b (List.mem_range.2 hb)) (by simp)
  | some c =>
    have hc := List.find?_some h
    have := columnAt_inj (hl c (List.mem_of_find?_eq_some h)) hb (of_decide_eq_true hc)
    simp [this]

/-- A written row leaves every other cell as before. -/
theorem cell_writeRow_off {x0 cx : Fin 64} {y cy : Fin 32}
    (h : cy = y → ∀ b, b < 8 → columnAt x0 b ≠ cx) (r : Byte) (s : State) :
    (writeRow x0 y r s).cell cx cy = s.cell cx cy := by
  have hl : ∀ c ∈ List.range 8, c < 8 := fun c hc => List.mem_range.1 hc
  rw [writeRow, cell_foldl_setCell x0 y (fun b => r.getLsbD (7 - b)) _ hl List.nodup_range]
  split
  · rename_i hy
    have : (List.range 8).find? (fun c => decide (columnAt x0 c = cx)) = none := by
      rw [List.find?_eq_none]
      intro b hb
      simpa using h hy b (hl b hb)
    simp [this]
  · rfl

/-! ### Rows of DXYN (R192) -/

/-- One more row is the rows before it, then that row. -/
theorem drawRows_succ (x y : Reg) (n i : Nat) (s : State) :
    drawRows x y (n + 1) i s = (drawRows x y n i s).bind fun _ u =>
      (memRead (indexAddr u (i + n)) u).bind fun sprite u =>
        .ok () (drawRow x y (i + n) sprite u) := by
  induction n generalizing i s with
  | zero => simp [drawRows]
  | succ n ih =>
    rw [drawRows]
    conv_rhs => rw [drawRows]
    cases h : memRead (indexAddr s i) s with
    | raised u => simp
    | ok b u =>
      simp only [Flow.bind_ok]
      rw [ih]
      simp only [show i + 1 + n = i + (n + 1) by omega]

/-- A drawn row changes VF and the framebuffer alone. -/
theorem drawRow_eq (x y : Reg) (i : Nat) (sprite : Byte) (s : State) :
    drawRow x y i sprite s =
      { s with v := (drawRow x y i sprite s).v, fb := (drawRow x y i sprite s).fb } := by
  unfold drawRow
  cases h : collides sprite (readRow (spriteColumn (s.V x)) (spriteRow (s.V y) i) s) with
  | true => simp only [h, cond_true]; rw [writeRow_eq]; rfl
  | false => simp only [h, cond_false]; rw [writeRow_eq]

/-- Rows inside memory are all drawn; only VF and the framebuffer change. -/
theorem drawRows_ok (x y : Reg) (n i : Nat) (s : State) (h : n = 0 ∨ s.i.toNat + i + n ≤ 4096) :
    ∃ u, drawRows x y n i s = .ok () u ∧ u = { s with v := u.v, fb := u.fb } := by
  induction n generalizing i s with
  | zero => exact ⟨s, rfl, rfl⟩
  | succ n ih =>
    have hlt : indexAddr s i < Config.memorySize := by
      have : s.i.toNat + i < 4096 := by omega
      exact this
    have hrow := drawRow_eq x y i (s.mem.read (indexAddr s i)) s
    have hi : (drawRow x y i (s.mem.read (indexAddr s i)) s).i = s.i := by rw [hrow]
    obtain ⟨u, hu, hf⟩ := ih (i + 1) (drawRow x y i (s.mem.read (indexAddr s i)) s)
      (by rw [hi]; omega)
    refine ⟨u, ?_, ?_⟩
    · rw [drawRows, memRead_ok hlt, Flow.bind_ok, hu]
    · rw [hf, hrow]

/-- Any rows of DXYN change VF, the framebuffer and FAULT alone, whether or not they raise. -/
theorem drawRows_frame (x y : Reg) (n i : Nat) (s : State) :
    (drawRows x y n i s).state =
      { s with
        v := (drawRows x y n i s).state.v
        fb := (drawRows x y n i s).state.fb
        fault := (drawRows x y n i s).state.fault } := by
  induction n generalizing i s with
  | zero => rfl
  | succ n ih =>
    rw [drawRows]
    unfold memRead
    split
    · simp only [Flow.bind_ok]
      rw [ih (i + 1) (drawRow x y i (s.mem.read (indexAddr s i)) s), drawRow_eq]
    · rfl

/-- Rows of DXYN leave FAULT or raise MemoryOutOfRange at the address of one of them. -/
theorem drawRows_fault (x y : Reg) (n i : Nat) (s : State) :
    (drawRows x y n i s).state.fault = s.fault ∨
      ∃ k, i ≤ k ∧ k < i + n ∧ 4096 ≤ s.i.toNat + k ∧
        (drawRows x y n i s).state.fault = some (.memoryOutOfRange (s.i.toNat + k)) := by
  induction n generalizing i s with
  | zero => exact .inl rfl
  | succ n ih =>
    rw [drawRows]
    unfold memRead
    split
    · simp only [Flow.bind_ok]
      have hr := drawRow_eq x y i (s.mem.read (indexAddr s i)) s
      rcases ih (i + 1) (drawRow x y i (s.mem.read (indexAddr s i)) s) with h | ⟨k, h1, h2, h3, h4⟩
      · left
        rw [h, hr]
      · right
        refine ⟨k, by omega, by omega, ?_, ?_⟩
        · rw [hr] at h3
          exact h3
        · rw [h4, hr]
    · rename_i h
      right
      refine ⟨i, le_refl _, by omega, ?_, rfl⟩
      simp only [indexAddr, Config.memorySize] at h
      omega

end Sys2Proof.Machine
end

