-- ==== Sys2Proof/Laws/Cycle.lean ====
section
/-! SUPPORT. What a step and its tick can do (spec/30_encoding.md R72 to R78). -/

namespace Sys2Proof.Machine

/-- A step with a next state: an instruction run, an unsupported word, or a fetch that raised. -/
theorem step_cases {s t : State} (h : step s = .next t) : s.fault = none ∧
    ((s.pc.toNat + 1 < 4096 ∧ ∃ i,
        decode (wordOfBytes (s.mem.read s.pc.toNat) (s.mem.read (s.pc.toNat + 1))) = .ok i ∧
        exec i (tickStage (advance (beginCycle s))) = .next t) ∨
      (s.pc.toNat + 1 < 4096 ∧ ∃ w, (∀ i, decode w ≠ .ok i) ∧
        t = (tickStage (advance (beginCycle s))).raise (.unsupportedInstruction w)) ∨
      (¬ s.pc.toNat + 1 < 4096 ∧
        t = (beginCycle s).raise (.memoryOutOfRange (max s.pc.toNat 4096)))) := by
  cases hf : s.fault with
  | some f => simp [step, cycle, hf] at h
  | none =>
    refine ⟨rfl, ?_⟩
    simp only [step, cycle, hf, runCycle] at h
    by_cases hp : s.pc.toNat + 1 < 4096
    · have : fetch (beginCycle s) = _ := fetch_ok (s := beginCycle s) (by simpa using hp)
      simp only [beginCycle_mem, beginCycle_pc] at this
      rw [this] at h
      simp only [dispatchWord] at h
      split at h
      · rename_i i hi
        exact .inl ⟨hp, i, hi, h⟩
      · rename_i e he
        injection h with h
        exact .inr (.inl ⟨hp, _, fun i hi => by simp [he] at hi, h.symm⟩)
    · have : fetch (beginCycle s) = _ := fetch_raised (s := beginCycle s) (by simpa using hp)
      rw [this] at h
      injection h with h
      exact .inr (.inr ⟨hp, h.symm⟩)

/-- The tick stage of a cycle that has emitted nothing yet: the signal marks the change of SND. -/
theorem tick_edges (s : State) (hs : s.signal = none) :
    ((tickStage s).signal = some .start ↔ s.snd = .stopped ∧ (tickStage s).snd = .playing) ∧
    ((tickStage s).signal = some .stop ↔ s.snd = .playing ∧ (tickStage s).snd = .stopped) ∧
    ((tickStage s).signal = none ↔ (tickStage s).snd = s.snd) ∧
    ((tickStage s).signal ≠ none → s.env.tick = true) := by
  cases ht : s.env.tick <;> cases hsnd : s.snd <;> by_cases h0 : 0#8 < s.st <;>
    simp [ht, hsnd, soundFor, audioEdge, h0, hs]

end Sys2Proof.Machine
end

