-- ==== Sys2Proof/Laws/Draw.lean ====
section
/-! SUPPORT. What one drawn row of DXYN does to the cells and to VF (spec/43_graphics.md R191, R192). -/

namespace Sys2Proof.Machine

/-- A set pixel of row `i` lies at the cell of one of its eight columns. -/
theorem rowPixel_at (vx vy : Byte) (i : Nat) (sprite : Byte) (b : Nat) (hb : b < 8) :
    rowPixel vx.toNat vy.toNat i sprite (columnAt (spriteColumn vx) b) (spriteRow vy i) =
      sprite.getLsbD (7 - b) := by
  have hcol : (columnAt (spriteColumn vx) b).val = (vx.toNat + b) % 64 := by
    simp [columnAt, spriteColumn, Fin.ofNat]
  have hrow : (spriteRow vy i).val = (vy.toNat + i) % 32 := by simp [spriteRow, Fin.ofNat]
  rw [rowPixel, hcol, hrow, decide_eq_true rfl, Bool.true_and, Bool.eq_iff_iff, List.any_eq_true]
  constructor
  · rintro ⟨c, hc, h⟩
    rw [List.mem_range] at hc
    rw [Bool.and_eq_true, decide_eq_true_eq] at h
    obtain rfl : b = c := by omega
    exact h.2
  · intro h
    exact ⟨b, List.mem_range.2 hb, by simpa using h⟩

theorem rowPixel_off (vx vy : Byte) (i : Nat) (sprite : Byte) {cx : Fin 64} {cy : Fin 32}
    (h : cy = spriteRow vy i → ∀ b, b < 8 → columnAt (spriteColumn vx) b ≠ cx) :
    rowPixel vx.toNat vy.toNat i sprite cx cy = false := by
  rw [rowPixel, Bool.and_eq_false_iff]
  by_cases hy : cy = spriteRow vy i
  · right
    rw [List.any_eq_false]
    intro b hb
    have := h hy b (List.mem_range.1 hb)
    have hne : cx.val ≠ (vx.toNat + b) % 64 := by
      intro e; apply this; apply Fin.ext
      simp [columnAt, spriteColumn, Fin.ofNat, e]
    simp [hne]
  · left
    have : cy.val ≠ (vy.toNat + i) % 32 := by
      intro e; exact hy (Fin.ext (by simp [spriteRow, Fin.ofNat, e]))
    simp [this]

/-- A drawn row inverts the cells under its set bits, and no other. -/
theorem cell_drawRow (x y : Reg) (i : Nat) (sprite : Byte) (s : State) (cx : Fin 64) (cy : Fin 32) :
    (drawRow x y i sprite s).cell cx cy =
      (s.cell cx cy ^^ rowPixel (s.V x).toNat (s.V y).toNat i sprite cx cy) := by
  have hc : ∀ c : Bool, ∀ cx cy, (bif c then s.setVF 1 else s).cell cx cy = s.cell cx cy := by
    intro c cx cy; cases c <;> simp [State.setVF]
  by_cases h : cy = spriteRow (s.V y) i ∧ ∃ b, b < 8 ∧ columnAt (spriteColumn (s.V x)) b = cx
  · obtain ⟨rfl, b, hb, rfl⟩ := h
    rw [rowPixel_at _ _ _ _ b hb]
    unfold drawRow
    rw [cell_writeRow_at _ _ _ _ b hb, BitVec.getLsbD_xor, getLsbD_readRow _ _ _ b hb]
  · have h' : cy = spriteRow (s.V y) i → ∀ b, b < 8 → columnAt (spriteColumn (s.V x)) b ≠ cx :=
      fun hy b hb e => h ⟨hy, b, hb, e⟩
    rw [rowPixel_off _ _ _ _ h', Bool.xor_false]
    unfold drawRow
    rw [cell_writeRow_off h', hc]

/-- A row collides exactly when one of its set bits is over a set cell. -/
theorem collides_iff (vx vy : Byte) (i : Nat) (sprite : Byte) (s : State) :
    collides sprite (readRow (spriteColumn vx) (spriteRow vy i) s) = true ↔
      ∃ cx cy, s.cell cx cy = true ∧ rowPixel vx.toNat vy.toNat i sprite cx cy = true := by
  rw [collides, bne_iff_ne, Ne, ← not_iff_not, not_not]
  constructor
  · rintro h ⟨cx, cy, hc, hp⟩
    by_cases hat : cy = spriteRow vy i ∧ ∃ b, b < 8 ∧ columnAt (spriteColumn vx) b = cx
    · obtain ⟨rfl, b, hb, rfl⟩ := hat
      rw [rowPixel_at _ _ _ _ b hb] at hp
      have := congrArg (fun v : Byte => v.getLsbD (7 - b)) h
      simp only [BitVec.getLsbD_and, hp, getLsbD_readRow _ _ _ b hb, hc] at this
      simp at this
    · rw [rowPixel_off _ _ _ _ fun hy b hb e => hat ⟨hy, b, hb, e⟩] at hp
      exact absurd hp (by simp)
  · intro h
    apply BitVec.eq_of_getLsbD_eq
    intro j hj
    have hb : 7 - (7 - j) = j := by omega
    have h1 := rowPixel_at vx vy i sprite (7 - j) (by omega)
    have h2 := getLsbD_readRow (spriteColumn vx) (spriteRow vy i) s (7 - j) (by omega)
    rw [hb] at h1 h2
    rw [BitVec.getLsbD_and, h2, ← h1]
    simp only [not_exists, not_and] at h
    have := h (columnAt (spriteColumn vx) (7 - j)) (spriteRow vy i)
    cases hc : s.cell (columnAt (spriteColumn vx) (7 - j)) (spriteRow vy i) <;> simp_all

theorem V_writeRow (x0 : Fin 64) (y : Fin 32) (b : Byte) (s : State) (r : Reg) :
    (writeRow x0 y b s).V r = s.V r := by
  have h : (writeRow x0 y b s).v = s.v := by rw [writeRow_eq]
  rw [State.V, State.V, h]

/-- A drawn row sets VF on a collision and leaves every register otherwise. -/
theorem V_drawRow (x y : Reg) (i : Nat) (sprite : Byte) (s : State) (r : Reg) :
    (drawRow x y i sprite s).V r =
      if r = 0xF ∧ collides sprite (readRow (spriteColumn (s.V x)) (spriteRow (s.V y) i) s) = true
      then 1 else s.V r := by
  have h1 : (drawRow x y i sprite s).V r = (bif collides sprite
      (readRow (spriteColumn (s.V x)) (spriteRow (s.V y) i) s) then s.setVF 1 else s).V r := by
    unfold drawRow
    exact V_writeRow _ _ _ _ _
  rw [h1]
  cases collides sprite (readRow (spriteColumn (s.V x)) (spriteRow (s.V y) i) s) with
  | false => simp
  | true => simp [State.setVF, Config.flagReg, State.V_setV, eq_comm]
/-- Rows of DXYN leave every register but VF. -/
theorem V_drawRows (x y : Reg) (n i : Nat) (s : State) {r : Reg} (hr : r ≠ 0xF) :
    (drawRows x y n i s).state.V r = s.V r := by
  induction n generalizing i s with
  | zero => rfl
  | succ n ih =>
    rw [drawRows]
    unfold memRead
    split
    · rw [Flow.bind_ok, ih, V_drawRow, if_neg fun h => hr h.1]
    · rfl

end Sys2Proof.Machine
end

