-- ==== Sys2Proof/Laws/Encode.lean ====
section
/-! SUPPORT. The fields and masks of an encoded word, and the decoder as its table: a row of R77 that accepts
a word decides it (spec/30_encoding.md R71, R76, R83). -/

namespace Sys2Proof

/-! ### Fields of an encoded word -/

theorem fieldX_wordXNN (t : BitVec 4) (x : Reg) (nn : Byte) : fieldX (wordXNN t x nn) = x := by
  have : (wordXNN t x nn).extractLsb' 8 4 = nibble x := by
    ext j hj
    simp only [wordXNN, BitVec.getElem_extractLsb', BitVec.getLsbD_append]
    simp [hj]
  simp [fieldX, this, nibble]

theorem fieldNN_wordXNN (t : BitVec 4) (x : Reg) (nn : Byte) : fieldNN (wordXNN t x nn) = nn := by
  ext j hj
  simp only [fieldNN, wordXNN, BitVec.getElem_extractLsb', BitVec.getLsbD_append]
  simp [hj]

theorem fieldNNN_wordNNN (t : BitVec 4) (nnn : Addr) : fieldNNN (wordNNN t nnn) = nnn := by
  ext j hj
  simp only [fieldNNN, wordNNN, BitVec.getElem_extractLsb', BitVec.getLsbD_append]
  simp [hj]

theorem fieldX_wordXYN (t : BitVec 4) (x y : Reg) (n : Fin 16) :
    fieldX (wordXYN t x y n) = x := by
  have : (wordXYN t x y n).extractLsb' 8 4 = nibble x := by
    ext j hj
    simp only [wordXYN, BitVec.getElem_extractLsb', BitVec.getLsbD_append]
    simp [hj, show ¬ 8 + j < 4 by omega, show 8 + j - 4 = 4 + j by omega]
  simp [fieldX, this, nibble]

theorem fieldY_wordXYN (t : BitVec 4) (x y : Reg) (n : Fin 16) :
    fieldY (wordXYN t x y n) = y := by
  have : (wordXYN t x y n).extractLsb' 4 4 = nibble y := by
    ext j hj
    simp only [wordXYN, BitVec.getElem_extractLsb', BitVec.getLsbD_append]
    simp [hj]
  simp [fieldY, this, nibble]

theorem fieldN_wordXYN (t : BitVec 4) (x y : Reg) (n : Fin 16) :
    fieldN (wordXYN t x y n) = n := by
  have : (wordXYN t x y n).extractLsb' 0 4 = nibble n := by
    ext j hj
    simp only [wordXYN, BitVec.getElem_extractLsb', BitVec.getLsbD_append]
    simp [hj]
  simp [fieldN, this, nibble]

/-! ### Masks of an encoded word -/

theorem wordXNN_and_F000 (t : BitVec 4) (x : Reg) (nn : Byte) :
    wordXNN t x nn &&& 0xF000 = t ++ 0#12 := by
  ext j hj
  simp only [wordXNN, BitVec.getElem_and, BitVec.getElem_append]
  interval_cases j <;> simp

theorem wordXNN_and_F0FF (t : BitVec 4) (x : Reg) (nn : Byte) :
    wordXNN t x nn &&& 0xF0FF = t ++ 0#4 ++ nn := by
  ext j hj
  simp only [wordXNN, BitVec.getElem_and, BitVec.getElem_append]
  interval_cases j <;> simp

theorem wordNNN_and_F000 (t : BitVec 4) (nnn : Addr) :
    wordNNN t nnn &&& 0xF000 = t ++ 0#12 := by
  ext j hj
  simp only [wordNNN, BitVec.getElem_and, BitVec.getElem_append]
  interval_cases j <;> simp

theorem wordXYN_and_F000 (t : BitVec 4) (x y : Reg) (n : Fin 16) :
    wordXYN t x y n &&& 0xF000 = t ++ 0#12 := by
  ext j hj
  simp only [wordXYN, BitVec.getElem_and, BitVec.getElem_append]
  interval_cases j <;> simp

theorem wordXYN_and_F00F (t : BitVec 4) (x y : Reg) (n : Fin 16) :
    wordXYN t x y n &&& 0xF00F = t ++ 0#8 ++ nibble n := by
  ext j hj
  simp only [wordXYN, BitVec.getElem_and, BitVec.getElem_append]
  interval_cases j <;> simp

/-! ### A word from its fields -/

/-- A word is its class nibble and NNN (R70). -/
theorem wordNNN_fields (w : Word) : wordNNN (w.extractLsb' 12 4) (fieldNNN w) = w := by
  refine BitVec.eq_of_getLsbD_eq fun j hj => ?_
  simp only [wordNNN, fieldNNN, BitVec.getLsbD_append, BitVec.getLsbD_extractLsb']
  interval_cases j <;> rfl

/-- A word is its class nibble, X and NN (R70). -/
theorem wordXNN_fields (w : Word) :
    wordXNN (w.extractLsb' 12 4) (fieldX w) (fieldNN w) = w := by
  refine BitVec.eq_of_getLsbD_eq fun j hj => ?_
  simp only [wordXNN, nibble, fieldX, fieldNN, BitVec.getLsbD_append, BitVec.ofFin_toFin,
    BitVec.getLsbD_extractLsb']
  interval_cases j <;> rfl

/-- A word is its class nibble, X, Y and its low nibble (R70). -/
theorem wordXYN_fields (w : Word) :
    wordXYN (w.extractLsb' 12 4) (fieldX w) (fieldY w) (fieldN w) = w := by
  refine BitVec.eq_of_getLsbD_eq fun j hj => ?_
  simp only [wordXYN, nibble, fieldX, fieldY, fieldN, BitVec.getLsbD_append, BitVec.ofFin_toFin,
    BitVec.getLsbD_extractLsb']
  interval_cases j <;> rfl

/-- A field all of whose bits the mask covers has the field's fixed digits. -/
theorem extract_of_and {w m b : Word} (h : w &&& m = b) (k n : Nat)
    (hm : m.extractLsb' k n = BitVec.allOnes n) : w.extractLsb' k n = b.extractLsb' k n := by
  rw [← h, BitVec.extractLsb'_and, hm, BitVec.and_allOnes]
/-! ### The table decides -/

/-- In a list whose earlier rows exclude its later ones, a row that accepts a word is the one found. -/
theorem find_of_disjoint {l : List Row}
    (hl : l.Pairwise fun r q => r.bits &&& q.mask ≠ q.bits &&& r.mask)
    {r : Row} (hr : r ∈ l) {w : Word} (h : r.accepts w) : l.find? (·.accepts w) = some r := by
  induction l with
  | nil => simp at hr
  | cons q l ih =>
    rw [List.pairwise_cons] at hl
    rcases List.mem_cons.1 hr with rfl | hr
    · simp [h]
    · have hq : q.accepts w = false := by
        by_contra hc
        have hqw : w &&& q.mask = q.bits := by simpa [Row.accepts] using hc
        have hrw : w &&& r.mask = r.bits := by simpa [Row.accepts] using h
        refine hl.1 r hr ?_
        rw [← hqw, ← hrw, BitVec.and_assoc, BitVec.and_assoc, BitVec.and_comm q.mask]
      rw [List.find?_cons_of_neg (by simp [hq])]
      exact ih hl.2 hr

/-- No word matches two rows of R77 (R83): two rows differ in a fixed digit both masks cover. -/
theorem rowsR77_disjoint :
    rowsR77.Pairwise fun r q => r.bits &&& q.mask ≠ q.bits &&& r.mask := by
  decide

/-- A row of R77 that accepts a word is the word's instruction (R76). -/
theorem decode_of_row {r : Row} (hr : r ∈ rowsR77) {w : Word} (h : r.accepts w) :
    decode w = .ok (r.build w) := by
  have := find_of_disjoint rowsR77_disjoint hr h
  simp [decode, decodeTable, List.find?_append, this]

/-- A decoded word matches the row that built its instruction (R76). -/
theorem row_of_decode {w : Word} {i : Instr} (h : decode w = .ok i) :
    ∃ r ∈ decodeTable, r.accepts w = true ∧ i = r.build w := by
  unfold decode at h
  split at h
  · rename_i r hr
    refine ⟨r, List.mem_of_find?_eq_some hr, ?_, ?_⟩
    · simpa using List.find?_some hr
    · simpa using h.symm
  · simp at h

/-- A row that accepts a word builds an instruction that the word encodes (R71, R77). -/
theorem encode_of_row : ∀ r ∈ decodeTable, ∀ w : Word, r.accepts w = true →
    encode (r.build w) = w := by
  intro r hr w hw
  have hw : w &&& r.mask = r.bits := by simpa [Row.accepts] using hw
  simp only [decodeTable, rowsR77, row0NNN, List.cons_append, List.nil_append, List.mem_cons,
    List.not_mem_nil, or_false] at hr
  rcases hr with rfl | rfl | rfl | rfl | rfl | rfl | rfl | rfl | rfl | rfl | rfl | rfl | rfl | rfl |
    rfl | rfl | rfl | rfl | rfl | rfl | rfl | rfl | rfl | rfl | rfl | rfl | rfl | rfl | rfl | rfl |
    rfl | rfl | rfl | rfl | rfl
  all_goals
    first
    | exact hw.symm.trans (BitVec.and_allOnes (x := w))
    | (conv_rhs => rw [← wordNNN_fields w, extract_of_and hw 12 4 (by decide)])
      rfl
    | (conv_rhs => rw [← wordXNN_fields w, extract_of_and hw 12 4 (by decide)])
      rfl
    | (conv_rhs => rw [← wordXNN_fields w, extract_of_and hw 12 4 (by decide), fieldNN,
        extract_of_and hw 0 8 (by decide)])
      rfl
    | (conv_rhs => rw [← wordXYN_fields w, extract_of_and hw 12 4 (by decide), fieldN,
        extract_of_and hw 0 4 (by decide)])
      rfl
    | (conv_rhs => rw [← wordXYN_fields w, extract_of_and hw 12 4 (by decide)])
      rfl

/-- A word of class 0 other than 00E0 and 00EE is 0NNN (R79). -/
theorem decode_class0 {w : Word} (h : w &&& 0xF000 = 0) (h0 : w ≠ 0x00E0) (hE : w ≠ 0x00EE) :
    decode w = .ok (.op0NNN (fieldNNN w)) := by
  have hnone : rowsR77.find? (·.accepts w) = none := by
    rw [List.find?_eq_none]
    intro r hr hacc
    have hrw : w &&& r.mask = r.bits := by simpa [Row.accepts] using hacc
    have key : r.bits &&& 0xF000 = 0 := by
      rw [← hrw, BitVec.and_assoc, BitVec.and_comm r.mask, ← BitVec.and_assoc, h]
      simp
    have hall : ∀ q ∈ rowsR77, q.bits &&& 0xF000 = 0 → q.mask = 0xFFFF ∧
        (q.bits = 0x00E0 ∨ q.bits = 0x00EE) := by
      decide
    obtain ⟨hm, hb⟩ := hall r hr key
    rw [hm] at hrw
    have hw : w = r.bits := by
      rw [← hrw]; exact (BitVec.and_allOnes (x := w)).symm
    rcases hb with hb | hb <;> simp_all
  have hrow : row0NNN.accepts w = true := by simpa [Row.accepts, row0NNN] using h
  rw [decode, decodeTable, List.find?_append, hnone]
  simp only [Option.none_or, List.find?_cons, hrow]
  rfl

end Sys2Proof
end

