-- ==== Sys2Proof/Laws/Frame.lean ====
section
/-! SUPPORT. The frame of each named update: which parts of the state and which registers it leaves alone; and
the index of a cell in a list of rows (spec/60_exceptions.md R253). -/

namespace Sys2Proof.Machine

theorem ChangesOnly.refl (ps : List Part) (s : State) : ChangesOnly ps s s := by
  intro p _
  cases p <;> simp [Part.same]

theorem ChangesOnly.trans {ps : List Part} {s t u : State} (h : ChangesOnly ps s t)
    (k : ChangesOnly ps t u) : ChangesOnly ps s u := by
  intro p hp
  have h1 := h p hp
  have h2 := k p hp
  cases p <;> simp_all [Part.same]

theorem ChangesOnly.mono {ps qs : List Part} {s t : State} (h : ChangesOnly ps s t)
    (hq : ∀ p ∈ ps, p ∈ qs) : ChangesOnly qs s t := fun p hp => h p fun hm => hp (hq p hm)

theorem changesOnly_setV (s : State) (x : Reg) (b : Byte) : ChangesOnly [.regs] s (s.setV x b) := by
  intro p hp
  cases p <;> first | exact absurd (by decide) hp | simp [Part.same]

theorem changesOnly_setI (s : State) (a : Word) : ChangesOnly [.index] s (s.setI a) := by
  intro p hp
  cases p <;> first | exact absurd (by decide) hp | simp [Part.same]

theorem changesOnly_setPC (s : State) (a : Word) : ChangesOnly [.pc] s (s.setPC a) := by
  intro p hp
  cases p <;> first | exact absurd (by decide) hp | simp [Part.same]

theorem changesOnly_skipIf (s : State) (c : Bool) : ChangesOnly [.pc] s (s.skipIf c) := by
  intro p hp
  cases p <;> first | exact absurd (by decide) hp | simp [Part.same]

theorem changesOnly_store (s : State) (a : Nat) (b : Byte) : ChangesOnly [.memory] s (s.store a b) := by
  intro p hp
  cases p <;> first | exact absurd (by decide) hp | simp [Part.same]

theorem changesOnly_raise (s : State) (f : Fault) : ChangesOnly [.fault] s (s.raise f) := by
  intro p hp
  cases p <;> first | exact absurd (by decide) hp | simp [Part.same]

theorem changesOnly_clearCells (s : State) : ChangesOnly [.screen] s s.clearCells := by
  intro p hp
  cases p <;> first | exact absurd (by decide) hp | simp [Part.same]

theorem changesOnly_afterKey (s : State) : ChangesOnly [.inputs] s s.afterKey := by
  intro p hp
  cases p <;> first | exact absurd (by decide) hp | simp [Part.same]

theorem changesOnly_afterRand (s : State) : ChangesOnly [.inputs] s s.afterRand := by
  intro p hp
  cases p <;> first | exact absurd (by decide) hp | simp [Part.same]

theorem regsExcept_setV (s : State) (x : Reg) (b : Byte) : RegsExcept [x] s (s.setV x b) :=
  fun _ hr => State.V_setV_ne s b (by simpa using hr)

theorem RegsExcept.trans {rs : List Reg} {s t u : State} (h : RegsExcept rs s t)
    (k : RegsExcept rs t u) : RegsExcept rs s u := fun r hr => (k r hr).trans (h r hr)

/-- Cell x of row y stands at `x + y*n` in rows of length n joined (R32). -/
theorem getElem?_flatten_of_length {α : Type} {n : Nat} (l : List (List α))
    (hl : ∀ r ∈ l, r.length = n) {x : Nat} (hx : x < n) (y : Nat) :
    l.flatten[x + y * n]? = l[y]?.bind (·[x]?) := by
  induction l generalizing y with
  | nil => simp
  | cons r l ih =>
    have hr : r.length = n := hl r (by simp)
    rw [List.flatten_cons]
    cases y with
    | zero =>
      rw [List.getElem?_append_left (by omega)]
      simp
    | succ y =>
      rw [List.getElem?_append_right (by rw [hr, Nat.succ_mul]; omega), List.getElem?_cons_succ,
        ← ih (fun q hq => hl q (by simp [hq])), hr, Nat.succ_mul]
      congr 1
      omega

end Sys2Proof.Machine
end

