-- ==== Sys2Proof/Laws/PerInstr.lean ====
section
/-! SUPPORT. Per instruction: the encoded word matches the instruction's own row of the decode table, and the
row reads the instruction back (spec/30_encoding.md R71, R77). -/

namespace Sys2Proof.Laws.EncodeLaw

/-- Some row of the decode table accepts the encoded word and builds the instruction from it. -/
def Statement (i : Instr) : Prop :=
  ∃ r ∈ decodeTable, r.accepts (encode i) = true ∧ r.build (encode i) = i

theorem op00E0 : Statement (.op00E0) :=
  ⟨⟨0xFFFF, 0x00E0, fun _ => .op00E0⟩, by simp [decodeTable, rowsR77, row0NNN], by rfl, by rfl⟩

theorem op00EE : Statement (.op00EE) :=
  ⟨⟨0xFFFF, 0x00EE, fun _ => .op00EE⟩, by simp [decodeTable, rowsR77, row0NNN], by rfl, by rfl⟩

theorem op1NNN (nnn : Addr) : Statement (.op1NNN nnn) :=
  ⟨⟨0xF000, 0x1000, fun w => .op1NNN (fieldNNN w)⟩, by simp [decodeTable, rowsR77, row0NNN], beq_iff_eq.2 ((wordNNN_and_F000 _ _).trans (by decide)), by simp [encode, fieldNNN_wordNNN]⟩

theorem op2NNN (nnn : Addr) : Statement (.op2NNN nnn) :=
  ⟨⟨0xF000, 0x2000, fun w => .op2NNN (fieldNNN w)⟩, by simp [decodeTable, rowsR77, row0NNN], beq_iff_eq.2 ((wordNNN_and_F000 _ _).trans (by decide)), by simp [encode, fieldNNN_wordNNN]⟩

theorem op3XNN (x : Reg) (nn : Byte) : Statement (.op3XNN x nn) :=
  ⟨⟨0xF000, 0x3000, fun w => .op3XNN (fieldX w) (fieldNN w)⟩, by simp [decodeTable, rowsR77, row0NNN], beq_iff_eq.2 ((wordXNN_and_F000 _ _ _).trans (by decide)), by simp [encode, fieldX_wordXNN, fieldNN_wordXNN]⟩

theorem op4XNN (x : Reg) (nn : Byte) : Statement (.op4XNN x nn) :=
  ⟨⟨0xF000, 0x4000, fun w => .op4XNN (fieldX w) (fieldNN w)⟩, by simp [decodeTable, rowsR77, row0NNN], beq_iff_eq.2 ((wordXNN_and_F000 _ _ _).trans (by decide)), by simp [encode, fieldX_wordXNN, fieldNN_wordXNN]⟩

theorem op5XY0 (x : Reg) (y : Reg) : Statement (.op5XY0 x y) :=
  ⟨⟨0xF00F, 0x5000, fun w => .op5XY0 (fieldX w) (fieldY w)⟩, by simp [decodeTable, rowsR77, row0NNN], beq_iff_eq.2 ((wordXYN_and_F00F _ _ _ _).trans (by decide)), by simp [encode, fieldX_wordXYN, fieldY_wordXYN]⟩

theorem op6XNN (x : Reg) (nn : Byte) : Statement (.op6XNN x nn) :=
  ⟨⟨0xF000, 0x6000, fun w => .op6XNN (fieldX w) (fieldNN w)⟩, by simp [decodeTable, rowsR77, row0NNN], beq_iff_eq.2 ((wordXNN_and_F000 _ _ _).trans (by decide)), by simp [encode, fieldX_wordXNN, fieldNN_wordXNN]⟩

theorem op7XNN (x : Reg) (nn : Byte) : Statement (.op7XNN x nn) :=
  ⟨⟨0xF000, 0x7000, fun w => .op7XNN (fieldX w) (fieldNN w)⟩, by simp [decodeTable, rowsR77, row0NNN], beq_iff_eq.2 ((wordXNN_and_F000 _ _ _).trans (by decide)), by simp [encode, fieldX_wordXNN, fieldNN_wordXNN]⟩

theorem op8XY0 (x : Reg) (y : Reg) : Statement (.op8XY0 x y) :=
  ⟨⟨0xF00F, 0x8000, fun w => .op8XY0 (fieldX w) (fieldY w)⟩, by simp [decodeTable, rowsR77, row0NNN], beq_iff_eq.2 ((wordXYN_and_F00F _ _ _ _).trans (by decide)), by simp [encode, fieldX_wordXYN, fieldY_wordXYN]⟩

theorem op8XY1 (x : Reg) (y : Reg) : Statement (.op8XY1 x y) :=
  ⟨⟨0xF00F, 0x8001, fun w => .op8XY1 (fieldX w) (fieldY w)⟩, by simp [decodeTable, rowsR77, row0NNN], beq_iff_eq.2 ((wordXYN_and_F00F _ _ _ _).trans (by decide)), by simp [encode, fieldX_wordXYN, fieldY_wordXYN]⟩

theorem op8XY2 (x : Reg) (y : Reg) : Statement (.op8XY2 x y) :=
  ⟨⟨0xF00F, 0x8002, fun w => .op8XY2 (fieldX w) (fieldY w)⟩, by simp [decodeTable, rowsR77, row0NNN], beq_iff_eq.2 ((wordXYN_and_F00F _ _ _ _).trans (by decide)), by simp [encode, fieldX_wordXYN, fieldY_wordXYN]⟩

theorem op8XY3 (x : Reg) (y : Reg) : Statement (.op8XY3 x y) :=
  ⟨⟨0xF00F, 0x8003, fun w => .op8XY3 (fieldX w) (fieldY w)⟩, by simp [decodeTable, rowsR77, row0NNN], beq_iff_eq.2 ((wordXYN_and_F00F _ _ _ _).trans (by decide)), by simp [encode, fieldX_wordXYN, fieldY_wordXYN]⟩

theorem op8XY4 (x : Reg) (y : Reg) : Statement (.op8XY4 x y) :=
  ⟨⟨0xF00F, 0x8004, fun w => .op8XY4 (fieldX w) (fieldY w)⟩, by simp [decodeTable, rowsR77, row0NNN], beq_iff_eq.2 ((wordXYN_and_F00F _ _ _ _).trans (by decide)), by simp [encode, fieldX_wordXYN, fieldY_wordXYN]⟩

theorem op8XY5 (x : Reg) (y : Reg) : Statement (.op8XY5 x y) :=
  ⟨⟨0xF00F, 0x8005, fun w => .op8XY5 (fieldX w) (fieldY w)⟩, by simp [decodeTable, rowsR77, row0NNN], beq_iff_eq.2 ((wordXYN_and_F00F _ _ _ _).trans (by decide)), by simp [encode, fieldX_wordXYN, fieldY_wordXYN]⟩

theorem op8XY6 (x : Reg) (y : Reg) : Statement (.op8XY6 x y) :=
  ⟨⟨0xF00F, 0x8006, fun w => .op8XY6 (fieldX w) (fieldY w)⟩, by simp [decodeTable, rowsR77, row0NNN], beq_iff_eq.2 ((wordXYN_and_F00F _ _ _ _).trans (by decide)), by simp [encode, fieldX_wordXYN, fieldY_wordXYN]⟩

theorem op8XY7 (x : Reg) (y : Reg) : Statement (.op8XY7 x y) :=
  ⟨⟨0xF00F, 0x8007, fun w => .op8XY7 (fieldX w) (fieldY w)⟩, by simp [decodeTable, rowsR77, row0NNN], beq_iff_eq.2 ((wordXYN_and_F00F _ _ _ _).trans (by decide)), by simp [encode, fieldX_wordXYN, fieldY_wordXYN]⟩

theorem op8XYE (x : Reg) (y : Reg) : Statement (.op8XYE x y) :=
  ⟨⟨0xF00F, 0x800E, fun w => .op8XYE (fieldX w) (fieldY w)⟩, by simp [decodeTable, rowsR77, row0NNN], beq_iff_eq.2 ((wordXYN_and_F00F _ _ _ _).trans (by decide)), by simp [encode, fieldX_wordXYN, fieldY_wordXYN]⟩

theorem op9XY0 (x : Reg) (y : Reg) : Statement (.op9XY0 x y) :=
  ⟨⟨0xF00F, 0x9000, fun w => .op9XY0 (fieldX w) (fieldY w)⟩, by simp [decodeTable, rowsR77, row0NNN], beq_iff_eq.2 ((wordXYN_and_F00F _ _ _ _).trans (by decide)), by simp [encode, fieldX_wordXYN, fieldY_wordXYN]⟩

theorem opANNN (nnn : Addr) : Statement (.opANNN nnn) :=
  ⟨⟨0xF000, 0xA000, fun w => .opANNN (fieldNNN w)⟩, by simp [decodeTable, rowsR77, row0NNN], beq_iff_eq.2 ((wordNNN_and_F000 _ _).trans (by decide)), by simp [encode, fieldNNN_wordNNN]⟩

theorem opBNNN (nnn : Addr) : Statement (.opBNNN nnn) :=
  ⟨⟨0xF000, 0xB000, fun w => .opBNNN (fieldNNN w)⟩, by simp [decodeTable, rowsR77, row0NNN], beq_iff_eq.2 ((wordNNN_and_F000 _ _).trans (by decide)), by simp [encode, fieldNNN_wordNNN]⟩

theorem opCXNN (x : Reg) (nn : Byte) : Statement (.opCXNN x nn) :=
  ⟨⟨0xF000, 0xC000, fun w => .opCXNN (fieldX w) (fieldNN w)⟩, by simp [decodeTable, rowsR77, row0NNN], beq_iff_eq.2 ((wordXNN_and_F000 _ _ _).trans (by decide)), by simp [encode, fieldX_wordXNN, fieldNN_wordXNN]⟩

theorem opDXYN (x : Reg) (y : Reg) (n : Fin 16) : Statement (.opDXYN x y n) :=
  ⟨⟨0xF000, 0xD000, fun w => .opDXYN (fieldX w) (fieldY w) (fieldN w)⟩, by simp [decodeTable, rowsR77, row0NNN], beq_iff_eq.2 ((wordXYN_and_F000 _ _ _ _).trans (by decide)), by simp [encode, fieldX_wordXYN, fieldY_wordXYN, fieldN_wordXYN]⟩

theorem opEX9E (x : Reg) : Statement (.opEX9E x) :=
  ⟨⟨0xF0FF, 0xE09E, fun w => .opEX9E (fieldX w)⟩, by simp [decodeTable, rowsR77, row0NNN], beq_iff_eq.2 ((wordXNN_and_F0FF _ _ _).trans (by decide)), by simp [encode, fieldX_wordXNN]⟩

theorem opEXA1 (x : Reg) : Statement (.opEXA1 x) :=
  ⟨⟨0xF0FF, 0xE0A1, fun w => .opEXA1 (fieldX w)⟩, by simp [decodeTable, rowsR77, row0NNN], beq_iff_eq.2 ((wordXNN_and_F0FF _ _ _).trans (by decide)), by simp [encode, fieldX_wordXNN]⟩

theorem opFX07 (x : Reg) : Statement (.opFX07 x) :=
  ⟨⟨0xF0FF, 0xF007, fun w => .opFX07 (fieldX w)⟩, by simp [decodeTable, rowsR77, row0NNN], beq_iff_eq.2 ((wordXNN_and_F0FF _ _ _).trans (by decide)), by simp [encode, fieldX_wordXNN]⟩

theorem opFX0A (x : Reg) : Statement (.opFX0A x) :=
  ⟨⟨0xF0FF, 0xF00A, fun w => .opFX0A (fieldX w)⟩, by simp [decodeTable, rowsR77, row0NNN], beq_iff_eq.2 ((wordXNN_and_F0FF _ _ _).trans (by decide)), by simp [encode, fieldX_wordXNN]⟩

theorem opFX15 (x : Reg) : Statement (.opFX15 x) :=
  ⟨⟨0xF0FF, 0xF015, fun w => .opFX15 (fieldX w)⟩, by simp [decodeTable, rowsR77, row0NNN], beq_iff_eq.2 ((wordXNN_and_F0FF _ _ _).trans (by decide)), by simp [encode, fieldX_wordXNN]⟩

theorem opFX18 (x : Reg) : Statement (.opFX18 x) :=
  ⟨⟨0xF0FF, 0xF018, fun w => .opFX18 (fieldX w)⟩, by simp [decodeTable, rowsR77, row0NNN], beq_iff_eq.2 ((wordXNN_and_F0FF _ _ _).trans (by decide)), by simp [encode, fieldX_wordXNN]⟩

theorem opFX1E (x : Reg) : Statement (.opFX1E x) :=
  ⟨⟨0xF0FF, 0xF01E, fun w => .opFX1E (fieldX w)⟩, by simp [decodeTable, rowsR77, row0NNN], beq_iff_eq.2 ((wordXNN_and_F0FF _ _ _).trans (by decide)), by simp [encode, fieldX_wordXNN]⟩

theorem opFX29 (x : Reg) : Statement (.opFX29 x) :=
  ⟨⟨0xF0FF, 0xF029, fun w => .opFX29 (fieldX w)⟩, by simp [decodeTable, rowsR77, row0NNN], beq_iff_eq.2 ((wordXNN_and_F0FF _ _ _).trans (by decide)), by simp [encode, fieldX_wordXNN]⟩

theorem opFX33 (x : Reg) : Statement (.opFX33 x) :=
  ⟨⟨0xF0FF, 0xF033, fun w => .opFX33 (fieldX w)⟩, by simp [decodeTable, rowsR77, row0NNN], beq_iff_eq.2 ((wordXNN_and_F0FF _ _ _).trans (by decide)), by simp [encode, fieldX_wordXNN]⟩

theorem opFX55 (x : Reg) : Statement (.opFX55 x) :=
  ⟨⟨0xF0FF, 0xF055, fun w => .opFX55 (fieldX w)⟩, by simp [decodeTable, rowsR77, row0NNN], beq_iff_eq.2 ((wordXNN_and_F0FF _ _ _).trans (by decide)), by simp [encode, fieldX_wordXNN]⟩

theorem opFX65 (x : Reg) : Statement (.opFX65 x) :=
  ⟨⟨0xF0FF, 0xF065, fun w => .opFX65 (fieldX w)⟩, by simp [decodeTable, rowsR77, row0NNN], beq_iff_eq.2 ((wordXNN_and_F0FF _ _ _).trans (by decide)), by simp [encode, fieldX_wordXNN]⟩

theorem op0NNN (nnn : Addr) : Statement (.op0NNN nnn) :=
  ⟨⟨0xF000, 0x0000, fun w => .op0NNN (fieldNNN w)⟩, by simp [decodeTable, rowsR77, row0NNN], beq_iff_eq.2 ((wordNNN_and_F000 _ _).trans (by decide)), by simp [encode, fieldNNN_wordNNN]⟩

end Sys2Proof.Laws.EncodeLaw
end

