-- ==== Sys2Proof/Laws/Stores.lean ====
section
/-! SUPPORT. What FX33 can do, by where I lies (spec/42_index_memory.md R173). -/

namespace Sys2Proof.Machine

/-- Three stores inside memory, or the stores below the first address outside it and the fault there. -/
theorem execFX33_cases (x : Reg) (s : State) :
    (s.i.toNat + 2 < 4096 ∧ execFX33 x s = .next
      (((s.store s.i.toNat (hundreds (s.V x))).store (s.i.toNat + 1) (tens (s.V x))).store
        (s.i.toNat + 2) (ones (s.V x)))) ∨
    (s.i.toNat = 4094 ∧ execFX33 x s = .next
      (((s.store 4094 (hundreds (s.V x))).store 4095 (tens (s.V x))).raise
        (.memoryOutOfRange 4096))) ∨
    (s.i.toNat = 4095 ∧ execFX33 x s = .next
      ((s.store 4095 (hundreds (s.V x))).raise (.memoryOutOfRange 4096))) ∨
    (4096 ≤ s.i.toNat ∧ execFX33 x s = .next (s.raise (.memoryOutOfRange s.i.toNat))) := by
  by_cases h2 : s.i.toNat + 2 < 4096
  · exact .inl ⟨h2, by
      simp [execFX33, indexAddr, memWrite, Flow.outcome, Config.memorySize, h2,
        show s.i.toNat + 1 < 4096 by omega, show s.i.toNat < 4096 by omega]⟩
  · by_cases h1 : s.i.toNat = 4094
    · exact .inr (.inl ⟨h1, by
        simp [execFX33, indexAddr, memWrite, Flow.outcome, Config.memorySize, h1]⟩)
    · by_cases h0 : s.i.toNat = 4095
      · exact .inr (.inr (.inl ⟨h0, by
          simp [execFX33, indexAddr, memWrite, Flow.outcome, Config.memorySize, h0]⟩))
      · have h : 4096 ≤ s.i.toNat := by omega
        exact .inr (.inr (.inr ⟨h, by
          simp [execFX33, indexAddr, memWrite, Flow.outcome, Config.memorySize,
            show ¬ s.i.toNat < 4096 by omega]⟩))

end Sys2Proof.Machine
end

