-- ==== Sys2Proof/Tests/Slice0.lean ====
section
/-! SUPPORT. Tests of the model. Expected results are the vectors of spec/95_test_vectors.md, cited by their
names (W, E, CF, A, M, G, IN, T, H), and the words are written out from the encodings of
spec/30_encoding.md R77; then one witness for the hypotheses of every obligation that has any. -/

namespace Sys2Proof.Tests

open Sys2Proof Sys2Proof.Machine

/-! ### Small states -/

/-- The reset state with inputs supplied: no tick, no key, the random byte 0xA7. -/
def quiet : State :=
  { State.reset with
    env := { ticks := [false], keys := [none], rands := [0xA7], tickNo := 0, keyNo := 0, randNo := 0 } }

/-- `quiet` with some registers set. -/
def regs (l : List (Reg × Byte)) : State := l.foldl (fun s p => s.setV p.1 p.2) quiet

/-- `s` with its next tick, or key sample, supplied. -/
def ticking (s : State) : State := { s with env := { s.env with ticks := [true] } }

def pressing (k : Key) (s : State) : State := { s with env := { s.env with keys := [some k] } }

/-- `s` with bytes stored from `a` on. -/
def bytes (a : Nat) : List Byte → State → State
  | [], s => s
  | b :: bs, s => bytes (a + 1) bs (s.store a b)

/-- The state one step leaves, the word placed at PC; a test that expects a change fails on `s` itself. -/
def after (w : Nat) (s : State) : State :=
  match step (s.withFetchWord 16 w) with
  | .next t => t
  | .fault _ => s
  | .refused _ => s

/-- An outcome is a next state with a property. -/
def nextWith (o : Outcome) (p : State → Bool) : Bool :=
  match o with
  | .next t => p t
  | .fault _ => false
  | .refused _ => false

/-! ### Well-formedness and decoding -/

theorem test_wf_refuses_0NNN_of_00E0 : (Instr.op0NNN 0x0E0).wf = false := by decide

theorem test_wf_refuses_0NNN_of_00EE : (Instr.op0NNN 0x0EE).wf = false := by decide

theorem test_wf_accepts_0NNN_beside_them :
    (Instr.op0NNN 0x0E1).wf = true ∧ (Instr.op0NNN 0x1EE).wf = true := by decide

theorem test_decode_00E0 : decode 0x00E0 = .ok (.op00E0) := by decide

theorem test_decode_00EE : decode 0x00EE = .ok (.op00EE) := by decide

theorem test_decode_1NNN : decode 0x1ABC = .ok (.op1NNN 0xABC) := by decide

theorem test_decode_2NNN : decode 0x2ABC = .ok (.op2NNN 0xABC) := by decide

theorem test_decode_3XNN : decode 0x3342 = .ok (.op3XNN 3 0x42) := by decide

theorem test_decode_4XNN : decode 0x4342 = .ok (.op4XNN 3 0x42) := by decide

theorem test_decode_5XY0 : decode 0x5120 = .ok (.op5XY0 1 2) := by decide

theorem test_decode_6XNN : decode 0x6A5C = .ok (.op6XNN 0xA 0x5C) := by decide

theorem test_decode_7XNN : decode 0x7301 = .ok (.op7XNN 3 0x01) := by decide

theorem test_decode_8XY0 : decode 0x8120 = .ok (.op8XY0 1 2) := by decide

theorem test_decode_8XY1 : decode 0x8121 = .ok (.op8XY1 1 2) := by decide

theorem test_decode_8XY2 : decode 0x8122 = .ok (.op8XY2 1 2) := by decide

theorem test_decode_8XY3 : decode 0x8123 = .ok (.op8XY3 1 2) := by decide

theorem test_decode_8XY4 : decode 0x8AB4 = .ok (.op8XY4 0xA 0xB) := by decide

theorem test_decode_8XY5 : decode 0x8125 = .ok (.op8XY5 1 2) := by decide

theorem test_decode_8XY6 : decode 0x8126 = .ok (.op8XY6 1 2) := by decide

theorem test_decode_8XY7 : decode 0x8127 = .ok (.op8XY7 1 2) := by decide

theorem test_decode_8XYE : decode 0x8A0E = .ok (.op8XYE 0xA 0) := by decide

theorem test_decode_9XY0 : decode 0x9120 = .ok (.op9XY0 1 2) := by decide

theorem test_decode_ANNN : decode 0xA123 = .ok (.opANNN 0x123) := by decide

theorem test_decode_BNNN : decode 0xBFFF = .ok (.opBNNN 0xFFF) := by decide

theorem test_decode_CXNN : decode 0xC30F = .ok (.opCXNN 3 0x0F) := by decide

theorem test_decode_DXYN : decode 0xD125 = .ok (.opDXYN 1 2 5) := by decide

theorem test_decode_EX9E : decode 0xE19E = .ok (.opEX9E 1) := by decide

theorem test_decode_EXA1 : decode 0xE1A1 = .ok (.opEXA1 1) := by decide

theorem test_decode_FX07 : decode 0xF307 = .ok (.opFX07 3) := by decide

theorem test_decode_FX0A : decode 0xF20A = .ok (.opFX0A 2) := by decide

theorem test_decode_FX15 : decode 0xF415 = .ok (.opFX15 4) := by decide

theorem test_decode_FX18 : decode 0xF418 = .ok (.opFX18 4) := by decide

theorem test_decode_FX1E : decode 0xF11E = .ok (.opFX1E 1) := by decide

theorem test_decode_FX29 : decode 0xF229 = .ok (.opFX29 2) := by decide

theorem test_decode_FX33 : decode 0xF533 = .ok (.opFX33 5) := by decide

theorem test_decode_FX55 : decode 0xF355 = .ok (.opFX55 3) := by decide

theorem test_decode_FX65 : decode 0xFE65 = .ok (.opFX65 0xE) := by decide

theorem test_decode_0NNN : decode 0x0123 = .ok (.op0NNN 0x123) := by decide

theorem test_encode_DXYN : encode (.opDXYN 1 2 5) = 0xD125 := by decide

/-- E12, E13, E14: words one digit away from a row. -/
theorem test_decode_rejects :
    decode 0x5121 = .error (.unsupported 0x5121) ∧ decode 0x9121 = .error (.unsupported 0x9121) ∧
    decode 0x812F = .error (.unsupported 0x812F) ∧ decode 0xE19F = .error (.unsupported 0xE19F) ∧
    decode 0xF075 = .error (.unsupported 0xF075) := by decide

/-- R82: one byte is no instruction. -/
theorem test_decode_truncated : decodeBytes [0x00] = .error .truncated := by decide

theorem test_decodeTableWord : decodeTableWord 16 0xD125 = some (.opDXYN 1 2 5) := by decide

/-! ### Instructions -/

/-- G1: the screen is cleared, VF stays. -/
theorem test_00E0 :
    let t := after 0x00E0 ((regs [(0xF, 0x55)]).setCell 63 31 true)
    t.cell 63 31 = false ∧ t.V 0xF = 0x55 ∧ t.pc = 0x202 := by decide

/-- CF6. -/
theorem test_00EE :
    let t := after 0x00EE { quiet with sp := 2, stack := (quiet.stack.set 0 0x300).set 1 0x456 }
    t.sp = 1 ∧ t.pc = 0x456 ∧ t.S 1 = 0x456 := by decide

/-- CF7. -/
theorem test_00EE_underflow :
    let t := after 0x00EE quiet
    t.fault = some (.stackUnderflow 0) ∧ t.sp = 0 ∧ t.pc = 0x202 := by decide

/-- CF1. -/
theorem test_1NNN :
    (after 0x1ABC quiet).pc = 0xABC := by decide

/-- CF4. -/
theorem test_2NNN :
    let t := after 0x2400 { quiet with sp := 15 }
    t.S 15 = 0x202 ∧ t.sp = 16 ∧ t.pc = 0x400 := by decide

/-- CF5. -/
theorem test_2NNN_overflow :
    let t := after 0x2400 { quiet with sp := 16 }
    t.fault = some (.stackOverflow 16) ∧ t.sp = 16 ∧ t.pc = 0x202 := by decide

/-- CF8, CF9. -/
theorem test_3XNN :
    (after 0x3342 (regs [(3, 0x42)])).pc = 0x204 ∧ (after 0x3343 (regs [(3, 0x42)])).pc = 0x202 := by decide

/-- CF10, CF11. -/
theorem test_4XNN :
    (after 0x4342 (regs [(3, 0x42)])).pc = 0x202 ∧ (after 0x4300 (regs [(3, 0x42)])).pc = 0x204 := by decide

/-- CF12, CF13. -/
theorem test_5XY0 :
    (after 0x5120 (regs [(1, 7), (2, 7)])).pc = 0x204 ∧
      (after 0x5120 (regs [(1, 7), (2, 8)])).pc = 0x202 := by decide

/-- A1. -/
theorem test_6XNN :
    (after 0x6F12 quiet).V 0xF = 0x12 := by decide

/-- A2. -/
theorem test_7XNN :
    let t := after 0x7301 (regs [(3, 0xFF), (0xF, 0x55)])
    t.V 3 = 0x00 ∧ t.V 0xF = 0x55 := by decide

/-- A5. -/
theorem test_8XY0 :
    let t := after 0x8120 (regs [(2, 0x9A), (0xF, 0x55)])
    t.V 1 = 0x9A ∧ t.V 0xF = 0x55 := by decide

/-- A7. -/
theorem test_8XY1 :
    let t := after 0x8121 (regs [(1, 0xF0), (2, 0x0F), (0xF, 0x55)])
    t.V 1 = 0xFF ∧ t.V 0xF = 0x55 := by decide

/-- A8. -/
theorem test_8XY2 :
    (after 0x8122 (regs [(1, 0xF0), (2, 0x3C)])).V 1 = 0x30 := by decide

/-- A9. -/
theorem test_8XY3 :
    (after 0x8123 (regs [(1, 0xF0), (2, 0x3C)])).V 1 = 0xCC := by decide

/-- W4: 200 + 100. -/
theorem test_8XY4 :
    let t := after 0x8124 (regs [(1, 0xC8), (2, 0x64)])
    t.V 1 = 0x2C ∧ t.V 0xF = 1 := by decide

/-- A15: the flag overwrites the sum. -/
theorem test_8XY4_into_VF :
    (after 0x8F14 (regs [(0xF, 0x10), (1, 0xF5)])).V 0xF = 1 := by decide

/-- A19. -/
theorem test_8XY5 :
    let t := after 0x8125 (regs [(1, 0x00), (2, 0xFF)])
    t.V 1 = 0x01 ∧ t.V 0xF = 0 := by decide

/-- W4: equal operands, no borrow. -/
theorem test_8XY5_equal :
    let t := after 0x8125 (regs [(1, 0x07), (2, 0x07)])
    t.V 1 = 0x00 ∧ t.V 0xF = 1 := by decide

/-- A29: Y is ignored. -/
theorem test_8XY6 :
    let t := after 0x8126 (regs [(1, 0x04), (2, 0xFF), (0xF, 1)])
    t.V 1 = 0x02 ∧ t.V 0xF = 0 := by decide

/-- A30. -/
theorem test_8XY6_of_VF :
    (after 0x8F06 (regs [(0xF, 0x03)])).V 0xF = 0 := by decide

/-- A23. -/
theorem test_8XY7 :
    let t := after 0x8127 (regs [(1, 0x05), (2, 0x07)])
    t.V 1 = 0x02 ∧ t.V 0xF = 1 := by decide

/-- W4. -/
theorem test_8XY7_borrow :
    let t := after 0x8127 (regs [(1, 0x07), (2, 0x05)])
    t.V 1 = 0xFE ∧ t.V 0xF = 0 := by decide

/-- A32. -/
theorem test_8XYE :
    let t := after 0x810E (regs [(1, 0x81)])
    t.V 1 = 0x02 ∧ t.V 0xF = 1 := by decide

/-- A35. -/
theorem test_8XYE_of_VF :
    (after 0x8F0E (regs [(0xF, 0x80)])).V 0xF = 0x02 := by decide

/-- CF15, CF16. -/
theorem test_9XY0 :
    (after 0x9120 (regs [(1, 7), (2, 8)])).pc = 0x204 ∧ (after 0x9110 quiet).pc = 0x202 := by decide

/-- M1. -/
theorem test_ANNN :
    (after 0xA123 quiet).i = 0x123 := by decide

/-- CF18. -/
theorem test_BNNN :
    (after 0xBFFF (regs [(0, 0xFF)])).pc = 0x10FE := by decide

/-- A37. -/
theorem test_CXNN :
    let t := after 0xC30F quiet
    t.V 3 = 0x07 ∧ t.env.rands = [] := by decide

/-- W5, the first draw. -/
theorem test_DXYN :
    let t := after 0xD121 ((bytes 0x300 [0xC0] (regs [(1, 0x0A), (2, 0x05)])).setI 0x300 |>.setCell 11 5 true)
    t.cell 10 5 = true ∧ t.cell 11 5 = false ∧ t.V 0xF = 1 := by decide

/-- G6. -/
theorem test_DXYN_wraps :
    let t := after 0xD121 ((bytes 0x300 [0xFF] (regs [(1, 0x3C)])).setI 0x300)
    t.cell 63 0 = true ∧ t.cell 0 0 = true ∧ t.cell 3 0 = true ∧ t.cell 4 0 = false ∧ t.V 0xF = 0 := by decide

/-- IN1, IN3. -/
theorem test_EX9E :
    (after 0xE19E (pressing 5 (regs [(1, 0x05)]))).pc = 0x204 ∧
      (after 0xE19E (pressing 5 (regs [(1, 0x15)]))).pc = 0x202 := by decide

/-- IN4, IN5. -/
theorem test_EXA1 :
    (after 0xE1A1 (regs [(1, 0x05)])).pc = 0x204 ∧
      (after 0xE1A1 (pressing 5 (regs [(1, 0x05)]))).pc = 0x202 := by decide

/-- IN8: the tick comes before the read. -/
theorem test_FX07 :
    let t := after 0xF307 (ticking (quiet.setDT 0x10))
    t.V 3 = 0x0F ∧ t.dt = 0x0F := by decide

/-- IN11. -/
theorem test_FX0A :
    let t := after 0xF20A (pressing 0xF quiet)
    t.V 2 = 0x0F ∧ t.pc = 0x202 := by decide

/-- IN12. -/
theorem test_FX0A_waits :
    let t := after 0xF20A (ticking (quiet.setDT 3))
    t.dt = 2 ∧ t.pc = 0x200 := by decide

/-- IN14: the tick comes before the write. -/
theorem test_FX15 :
    (after 0xF415 (ticking (regs [(4, 0x3C)]))).dt = 0x3C := by decide

/-- IN15. -/
theorem test_FX18 :
    let t := after 0xF418 (regs [(4, 0x02)])
    t.st = 0x02 ∧ t.snd = .stopped ∧ t.signal = none := by decide

/-- M4, M5. -/
theorem test_FX1E :
    (after 0xF11E ((regs [(1, 1)]).setI 0xFFF)).i = 0x1000 ∧
      (after 0xF11E ((regs [(1, 1)]).setI 0xFFFF)).i = 0x0000 := by decide

/-- M8, M9. -/
theorem test_FX29 :
    (after 0xF229 (regs [(2, 0x0F)])).i = 0x04B ∧ (after 0xF229 (regs [(2, 0x10)])).i = 0x050 := by decide

/-- M12. -/
theorem test_FX33 :
    let t := after 0xF133 ((regs [(1, 0xFF)]).setI 0x400)
    t.mem.read 0x400 = 2 ∧ t.mem.read 0x401 = 5 ∧ t.mem.read 0x402 = 5 ∧ t.i = 0x400 := by decide

/-- M14. -/
theorem test_FX33_at_the_top :
    let t := after 0xF133 ((regs [(1, 0x7B)]).setI 0xFFE)
    t.mem.read 0xFFE = 1 ∧ t.mem.read 0xFFF = 2 ∧ t.fault = some (.memoryOutOfRange 0x1000) := by decide

/-- M18. -/
theorem test_FX55 :
    let t := after 0xF055 quiet
    t.fault = some (.unsupportedInstruction 0xF055) ∧ t.pc = 0x202 := by decide

/-- M19. -/
theorem test_FX65 :
    (after 0xFE65 quiet).fault = some (.unsupportedInstruction 0xFE65) := by decide

/-- E7. -/
theorem test_0NNN :
    let t := after 0x0123 quiet
    t.fault = some (.unsupportedInstruction 0x0123) ∧ t.pc = 0x202 := by decide

/-! ### The cycle, the tick and the host's operations -/

/-- E5: the tick is applied before the fault. -/
theorem test_unmatched_word :
    let t := after 0xFFFF (ticking (quiet.setDT 5))
    t.dt = 4 ∧ t.pc = 0x202 ∧ t.fault = some (.unsupportedInstruction 0xFFFF) := by decide

/-- E3: no tick, PC unchanged. -/
theorem test_fetch_out_of_range :
    let t := after 0x6000 (ticking ((quiet.setDT 5).setPC 0xFFF))
    t.fault = some (.memoryOutOfRange 0x1000) ∧ t.pc = 0xFFF ∧ t.dt = 5 := by decide

/-- T3, tick 1. -/
theorem test_tick_start :
    let t := after 0x1200 (ticking (quiet.setST 1))
    t.signal = some .start ∧ t.snd = .playing ∧ t.st = 0 := by decide

/-- T4, tick 1. -/
theorem test_tick_stop :
    (after 0x1200 (ticking { quiet with snd := .playing })).signal = some .stop := by decide

/-- H3: the PC pushed is not advanced. -/
theorem test_execute :
    nextWith (execute 0x2300 quiet) (fun t => t.S 0 == 0x200 && t.pc == 0x300) = true := by decide

/-- H8. -/
theorem test_latch :
    Latch.press (some 16) (some 3) = .error .invalidKeyCode ∧
      Latch.afterPress (some 16) (some 3) = some 3 := by decide

/-! ### Witnesses: the hypotheses of each obligation are met -/

/-- Beside the two words that 0NNN leaves out. -/
theorem witness_EveryInstructionDecodesFromItsWord :
    (Instr.op0NNN 0x0DF).wf = true ∧ (Instr.opDXYN 0xF 0xF 0xF).wf = true := by decide

/-- The last word of a class. -/
theorem witness_DecodedInstructionEncodesBack :
    decode 0xDFFF = .ok (.opDXYN 0xF 0xF 0xF) := by decide

/-- With bytes left over. -/
theorem witness_DecodingConsumesTwoBytes :
    (Instr.opFX65 0xF).wf = true ∧ decodeBytes [0xFF, 0x65, 0x12] = .ok (.opFX65 0xF, [0x12]) := by decide

/-- Each disjunct at an end of its range. -/
theorem witness_UnsupportedWordsByNibbles :
    decode 0x5001 = .error (.unsupported 0x5001) ∧ decode 0x9FFF = .error (.unsupported 0x9FFF) ∧
      decode 0x8008 = .error (.unsupported 0x8008) ∧ decode 0x800F = .error (.unsupported 0x800F) ∧
      decode 0xE000 = .error (.unsupported 0xE000) ∧ decode 0xEFA2 = .error (.unsupported 0xEFA2) ∧
      decode 0xF000 = .error (.unsupported 0xF000) ∧ decode 0xFF66 = .error (.unsupported 0xFF66) := by decide

/-- The last address that can be fetched, a tick due, a word that decodes and one that does not (E5). -/
theorem witness_StepRunsTheDecodedInstruction :
    let s := ticking (bytes 0xFFE [0x12, 0x34] (quiet.setPC 0xFFE))
    let n := ticking (bytes 0xFFE [0xFF, 0xFF] (quiet.setPC 0xFFE))
    s.fault = none ∧ s.pc.toNat + 1 < 4096 ∧ s.env.tick = true ∧
      decode (wordOfBytes (s.mem.read s.pc.toNat) (s.mem.read (s.pc.toNat + 1))) =
        .ok (.op1NNN 0x234) ∧
      n.fault = none ∧ n.pc.toNat + 1 < 4096 ∧
      decode (wordOfBytes (n.mem.read n.pc.toNat) (n.mem.read (n.pc.toNat + 1))) =
        .error (.unsupported 0xFFFF) := by decide

/-- Both sides of the edge of memory. -/
theorem witness_FetchReadsBigEndianOrFaults :
    (quiet.setPC 0xFFE).pc.toNat + 1 < 4096 ∧ 4096 ≤ (quiet.setPC 0xFFF).pc.toNat + 1 ∧
      4096 ≤ (quiet.setPC 0x10FE).pc.toNat + 1 ∧ quiet.fault = none := by decide

/-- A word of no row, and a 0NNN word. -/
theorem witness_UnmatchedWordFaultsWithNoOtherEffect :
    (∀ r ∈ rowsR77, 0xFFFF#16 &&& r.mask ≠ r.bits) ∧ ∀ r ∈ rowsR77, 0x00E1#16 &&& r.mask ≠ r.bits := by decide

/-- A core whose stack underflowed. -/
theorem witness_FaultedCoreTakesNoStep :
    (quiet.raise (.stackUnderflow 0)).fault = some (.stackUnderflow 0) := by decide

/-- The reset state runs. -/
theorem witness_RunningCoreAlwaysCompletesItsCycle :
    State.reset.fault = none := by decide

/-- No tick, a tick with ST = 0 and one with ST = 1. -/
theorem witness_TickCountsDownAndDrivesSound :
    quiet.env.tick = false ∧ (ticking quiet).env.tick = true ∧ (ticking quiet).st = 0 ∧
      (ticking (quiet.setST 1)).st = 1 ∧ (ticking (quiet.setST 1)).env.tick = true := by decide

/-- A cycle that writes ST. -/
theorem witness_SoundIsStillWithoutATick :
    (quiet.withFetchWord 16 0xF418).env.tick = false ∧
      nextWith (step (quiet.withFetchWord 16 0xF418)) (fun _ => true) = true := by decide

/-- Cycles that emit Start, Stop and nothing. -/
theorem witness_AudioSignalsAreEdges :
    nextWith (step ((ticking (quiet.setST 1)).withFetchWord 16 0x1200))
      (fun t => t.signal == some .start) = true ∧
      nextWith (step ((ticking { quiet with snd := .playing }).withFetchWord 16 0x1200))
      (fun t => t.signal == some .stop) = true ∧
      nextWith (step (quiet.withFetchWord 16 0x1200)) (fun t => t.signal == none) = true := by decide

/-- PC and every return address at their largest. -/
theorem witness_EveryCycleKeepsTheInvariant :
    let s := { quiet with pc := 0x10FE, stack := Vector.replicate 16 0x1000 }
    s.Inv ∧ nextWith (step s) (fun _ => true) = true :=
  ⟨⟨Memory.wf_reset, by decide, by decide, fun _ h => (nomatch h), fun _ h => (nomatch h)⟩, by decide⟩

/-- An image of the right size. -/
theorem witness_ResetMeetsTheInvariant :
    ∃ s, resetWith Config.font2F Env.initial (List.replicate 4096 0x12) = .ok s :=
  ⟨_, if_pos List.length_replicate⟩

/-- An FX0A word at PC and no key. -/
theorem witness_KeyWaitMakesNoProgress :
    let s := bytes 0xFFE [0xFF, 0x0A] (quiet.setPC 0xFFE)
    s.fault = none ∧ s.pc.toNat + 1 < 4096 ∧ s.env.key = none ∧
      decode (wordOfBytes (s.mem.read s.pc.toNat) (s.mem.read (s.pc.toNat + 1))) = .ok (.opFX0A 0xF) := by decide

/-- The last I whose three bytes are inside memory. -/
theorem witness_StoredDigitsAreFetchedAsCode :
    let s := (regs [(1, 0xFF)]).setI 0xFFD
    s.mem.wf ∧ s.i.toNat + 2 < 4096 ∧ nextWith (exec (.opFX33 1) s) (fun _ => true) = true := by decide

/-- An add that sets VF. -/
theorem witness_OnlyFlagWritersAndDestinationsWriteVF :
    let s := regs [(1, 0xFF), (2, 0x01)]
    nextWith (exec (.op8XY4 1 2) s) (fun t => t.V 0xF != s.V 0xF) = true := by decide

/-- An ANNN that moves I. -/
theorem witness_OnlyIndexInstructionsWriteI :
    nextWith (exec (.opANNN 0xFFF) quiet) (fun t => t.i != quiet.i) = true := by decide

/-- A store over the font. -/
theorem witness_OnlyBcdWritesMemory :
    let s := regs [(1, 0x7B)]
    nextWith (exec (.opFX33 1) s) (fun t => t.mem.read 0 != s.mem.read 0) = true := by decide

/-- A jump, a skip and a wait. -/
theorem witness_OnlyControlInstructionsWritePC :
    nextWith (exec (.op1NNN 0xABC) quiet) (fun t => t.pc != quiet.pc) = true ∧
      nextWith (exec (.op3XNN 0 0) quiet) (fun t => t.pc != quiet.pc) = true ∧
      nextWith (exec (.opFX0A 0) quiet) (fun t => t.pc != quiet.pc) = true := by decide

/-- A call into the last entry, and a return. -/
theorem witness_OnlyCallAndReturnTouchTheStack :
    let s := { quiet with sp := 15 }
    nextWith (exec (.op2NNN 0x400) s) (fun t => t.S 15 != s.S 15 && t.sp != s.sp) = true ∧
      nextWith (exec .op00EE s) (fun t => t.sp != s.sp) = true := by decide

/-- Writes of both timers. -/
theorem witness_OnlyTimerInstructionsWriteTimers :
    let s := regs [(4, 0x3C)]
    nextWith (exec (.opFX15 4) s) (fun t => t.dt != s.dt) = true ∧
      nextWith (exec (.opFX18 4) s) (fun t => t.st != s.st) = true := by decide

/-- A draw of glyph 0 at the last cell. -/
theorem witness_OnlyClearAndDrawWriteTheScreen :
    let s := regs [(1, 0x3F), (2, 0x1F)]
    nextWith (exec (.opDXYN 1 2 1) s) (fun t => t.cell 63 31 != s.cell 63 31) = true := by decide

/-- A fault of each kind from a state without one. -/
theorem witness_EachInstructionRaisesItsOwnFault :
    quiet.fault = none ∧
      nextWith (exec .op00EE quiet)
      (fun t => t.fault == some (.stackUnderflow 0)) = true ∧
      nextWith (exec (.op2NNN 0) { quiet with sp := 16 })
      (fun t => t.fault == some (.stackOverflow 16)) = true ∧
      nextWith (exec (.opDXYN 0 0 1) (quiet.setI 0x1000))
      (fun t => t.fault == some (.memoryOutOfRange 0x1000)) = true ∧
      nextWith (exec (.opFX33 0) (quiet.setI 0xFFE))
      (fun t => t.fault == some (.memoryOutOfRange 0x1000)) = true ∧
      nextWith (exec (.op0NNN 0xFFF) quiet)
      (fun t => t.fault == some (.unsupportedInstruction 0x0FFF)) = true := by decide

/-- One instruction of each clause. -/
theorem witness_InstructionsSampleTheirInputsOnce :
    nextWith (exec (.opCXNN 0 0) quiet) (fun t => t.env != quiet.env) = true ∧
      nextWith (exec (.opFX0A 0) quiet) (fun t => t.env != quiet.env) = true ∧
      nextWith (exec .op00E0 quiet) (fun t => t.env == quiet.env) = true := by decide

/-- The first and the last entry, and the empty stack. -/
theorem witness_ReturnPopsTheLastPushedAddress :
    ({ quiet with sp := 1 } : State).sp.val = (0 : Fin 16).val + 1 ∧
      ({ quiet with sp := 16 } : State).sp.val = (15 : Fin 16).val + 1 ∧ quiet.sp.val = 0 := by decide

/-- The last free entry, and the full stack. -/
theorem witness_CallPushesTheReturnAddress :
    ({ quiet with sp := 15 } : State).sp.val < 16 ∧ ({ quiet with sp := 16 } : State).sp.val = 16 := by decide

/-- A call into the last entry, returned from at once. -/
theorem witness_CallThenReturnRestoresPC :
    let s := { quiet with sp := 15 }
    s.sp.val < 16 ∧ nextWith (exec (.op2NNN 0x300) s) (fun t => t.sp.val == 16) = true := by decide

/-- A destination other than VF; 8XY5, 8XY7, 8XY6 and 8XYE have the same premise. -/
theorem witness_AddSetsCarry :
    (0xE : Reg) ≠ 0xF := by decide

/-- A supplied byte. -/
theorem witness_RandomByteIsMasked :
    quiet.env.rand = 0xA7 := by decide

/-- Both sides of the edge of memory. -/
theorem witness_StoreBcdWritesThreeDigits :
    quiet.mem.wf ∧ indexAddr (quiet.setI 0xFFD) 2 < 4096 ∧ 4096 ≤ indexAddr (quiet.setI 0xFFE) 2 ∧
      indexAddr (quiet.setI 0xFFE) 1 < 4096 ∧ indexAddr (quiet.setI 0xFFF) 0 < 4096 ∧
      4096 ≤ indexAddr (quiet.setI 0x1000) 0 := by decide

/-- 0NNN words beside 00E0 and 00EE. -/
theorem witness_NamedUnsupportedWordsFault :
    0x00E1#16 &&& 0xF000 = 0x0000 ∧ 0x0FFF#16 &&& 0xF000 = 0x0000 ∧ 0x00E1#16 ≠ 0x00E0 ∧
      0x0FFF#16 ≠ 0x00EE := by decide

/-- The tallest sprite that fits, and a first row outside memory. -/
theorem witness_DrawSpriteRowByRow :
    (15 : Fin 16).val = (14 : Fin 16).val + 1 ∧ (quiet.setI 0xFF1).i.toNat + (14 : Fin 16).val < 4096 ∧
      (0 : Fin 16).val < (1 : Fin 16).val ∧ 4096 ≤ (quiet.setI 0x1000).i.toNat + (0 : Fin 16).val ∧
      (1 : Fin 16).val < (15 : Fin 16).val ∧ 4096 ≤ (quiet.setI 0xFFF).i.toNat + (1 : Fin 16).val ∧
      ∀ k, k < (1 : Fin 16).val → (quiet.setI 0xFFF).i.toNat + k < 4096 := by decide

/-- Coordinates from VD and VE, the last sprite that fits. -/
theorem witness_DrawSpriteInvertsItsPixels :
    (0xD : Reg) ≠ 0xF ∧ (0xE : Reg) ≠ 0xF ∧ (quiet.setI 0xFF1).i.toNat + (15 : Fin 16).val ≤ 4096 := by decide

/-- The tallest sprite that just fits, and no row at all from an I outside memory. -/
theorem witness_DoubleDrawRestoresTheScreen :
    (0xD : Reg) ≠ 0xF ∧ (0xE : Reg) ≠ 0xF ∧ (quiet.setI 0xFF1).i.toNat + (15 : Fin 16).val ≤ 4096 ∧
      (0 : Fin 16).val = 0 ∧ ¬ (quiet.setI 0xFFFF).i.toNat ≤ 4096 := by decide

/-- No key, and the last key. -/
theorem witness_WaitForKey :
    quiet.env.key = none ∧ (pressing 0xF quiet).env.key = some 0xF := by decide

/-- One byte too few, and the right size. -/
theorem witness_ResetBuildsTheInitialState :
    (List.replicate 4095 (0 : Byte)).length ≠ 4096 ∧ (List.replicate 4096 (0 : Byte)).length = 4096 :=
  ⟨fun h => absurd (List.length_replicate.symm.trans h) (by decide), List.length_replicate⟩

/-- A word that decodes and one that does not. -/
theorem witness_ExecuteDispatchesOnTheCurrentState :
    quiet.fault = none ∧ decode 0x6107 = .ok (.op6XNN 1 0x07) ∧
      decode 0xFFFF = .error (.unsupported 0xFFFF) := by decide

/-- The last register, and the first index that is none. -/
theorem witness_AccessorsReadTheState :
    getRegister 15 (regs [(15, 0x42)]) = .ok 0x42 ∧
      getRegister 16 quiet = .error .invalidRegisterIndex := by decide

/-- The last key, and the first code that is none. -/
theorem witness_HostBoundaryContracts :
    Latch.press (some 15) none = .ok (some 15) ∧ Latch.press (some 16) none = .error .invalidKeyCode := by decide

end Sys2Proof.Tests
end

section
/-! SUPPORT. What the dispatch of any word and any instruction does: it answers a next state and writes no
part of the state but those the instruction's rule names. -/

namespace Sys2Proof.Machine

/-! ### Frames of the named updates that Laws/Frame leaves out -/

theorem changesOnly_setDT (s : State) (b : Byte) : ChangesOnly [.delay] s (s.setDT b) := by
  intro p hp
  cases p <;> first | exact absurd (by decide) hp | simp [Part.same]

theorem changesOnly_setST (s : State) (b : Byte) : ChangesOnly [.soundTimer] s (s.setST b) := by
  intro p hp
  cases p <;> first | exact absurd (by decide) hp | simp [Part.same]

/-- What two updates in a row change. -/
theorem ChangesOnly.seq {ps qs : List Part} {s t u : State} (h : ChangesOnly ps s t)
    (k : ChangesOnly qs t u) : ChangesOnly (ps ++ qs) s u :=
  (h.mono fun _ => List.mem_append_left qs).trans (k.mono fun _ => List.mem_append_right ps)

/-- Two writes of registers, as the instructions with a flag make them (R22). -/
theorem changesOnly_setV_setV (s : State) (x y : Reg) (b c : Byte) :
    ChangesOnly [.regs] s ((s.setV x b).setV y c) :=
  (changesOnly_setV s x b).trans (changesOnly_setV _ y c)

theorem changesOnly_sp {s t : State} (h : t = { s with sp := t.sp }) : ChangesOnly [.sp] s t := by
  intro p hp
  rw [h]
  cases p <;> first | exact absurd (by decide) hp | simp [Part.same, State.V, State.S, State.cell]

theorem changesOnly_stack_sp {s t : State} (h : t = { s with stack := t.stack, sp := t.sp }) :
    ChangesOnly [.stack, .sp] s t := by
  intro p hp
  rw [h]
  cases p <;> first | exact absurd (by decide) hp | simp [Part.same, State.V, State.cell]

/-- Rows of DXYN, raising or not (R192). -/
theorem changesOnly_drawRows (x y : Reg) (n i : Nat) (s : State) :
    ChangesOnly [.regs, .screen, .fault] s (drawRows x y n i s).state := by
  intro p hp
  rw [drawRows_frame]
  cases p <;> first | exact absurd (by decide) hp | simp [Part.same, State.S]

/-! ### What an instruction may write -/

/-- The parts of the state that an instruction's rule may write, FAULT where the rule may raise (R22 to R34,
R237). -/
def writtenParts : Instr → List Part
  | .op00E0 => [.screen]
  | .op00EE => [.pc, .sp, .fault]
  | .op1NNN _ | .opBNNN _ => [.pc]
  | .op2NNN _ => [.pc, .stack, .sp, .fault]
  | .op3XNN _ _ | .op4XNN _ _ | .op5XY0 _ _ | .op9XY0 _ _ => [.pc]
  | .op6XNN _ _ | .op7XNN _ _ | .op8XY0 _ _ | .op8XY1 _ _ | .op8XY2 _ _ | .op8XY3 _ _
  | .op8XY4 _ _ | .op8XY5 _ _ | .op8XY6 _ _ | .op8XY7 _ _ | .op8XYE _ _ | .opFX07 _ => [.regs]
  | .opANNN _ | .opFX1E _ | .opFX29 _ => [.index]
  | .opCXNN _ _ => [.regs, .inputs]
  | .opDXYN _ _ _ => [.regs, .screen, .fault]
  | .opEX9E _ | .opEXA1 _ => [.pc, .inputs]
  | .opFX0A _ => [.regs, .pc, .inputs]
  | .opFX15 _ => [.delay]
  | .opFX18 _ => [.soundTimer]
  | .opFX33 _ => [.memory, .fault]
  | .opFX55 _ | .opFX65 _ | .op0NNN _ => [.fault]

/-! ### Instructions whose outcome depends on the state -/

theorem execFX0A_none {s : State} (x : Reg) (h : s.env.key = none) :
    execFX0A x s = .next (s.afterKey.setPC (s.pc - 2)) := by
  simp [execFX0A, h]

theorem execFX0A_some {s : State} (x : Reg) {k : Key} (h : s.env.key = some k) :
    execFX0A x s = .next (s.afterKey.setV x (keyByte k)) := by
  simp [execFX0A, h]

/-- 00EE writes PC and SP, or raises (R100). -/
theorem exec00EE_next (s : State) :
    ∃ t, exec00EE s = .next t ∧ ChangesOnly [.pc, .sp, .fault] s t := by
  by_cases h0 : s.sp.val = 0
  · refine ⟨s.raise (.stackUnderflow 0), ?_, (changesOnly_raise s _).mono (by decide)⟩
    rw [exec00EE, pop_raised h0, Flow.bind_raised, Flow.outcome, Flow.state_raised]
  · obtain ⟨k, hk⟩ := Nat.exists_eq_succ_of_ne_zero h0
    have hk16 : k < 16 := by omega
    obtain ⟨t, hpop, -, ht⟩ := pop_ok k hk16 hk
    refine ⟨t.setPC (s.S ⟨k, hk16⟩), ?_, ((changesOnly_sp ht).seq
      (changesOnly_setPC t _)).mono (by decide)⟩
    rw [exec00EE, hpop, Flow.bind_ok, Flow.outcome, Flow.state_ok]

/-- 2NNN writes PC, the stack and SP, or raises (R102). -/
theorem exec2NNN_next (nnn : Addr) (s : State) :
    ∃ t, exec2NNN nnn s = .next t ∧ ChangesOnly [.pc, .stack, .sp, .fault] s t := by
  by_cases h : s.sp.val < 16
  · obtain ⟨t, hpush, -, -, ht⟩ := push_ok h s.pc
    refine ⟨t.setPC (zextAddr nnn), ?_, ((changesOnly_stack_sp ht).seq
      (changesOnly_setPC t _)).mono (by decide)⟩
    rw [exec2NNN, hpush, Flow.bind_ok, Flow.outcome, Flow.state_ok]
  · refine ⟨s.raise (.stackOverflow s.sp.val), ?_, (changesOnly_raise s _).mono (by decide)⟩
    rw [exec2NNN, push_raised h, Flow.bind_raised, Flow.outcome, Flow.state_raised]

/-- FX0A writes one register or PC, and samples the latch (R213). -/
theorem execFX0A_next (x : Reg) (s : State) :
    ∃ t, execFX0A x s = .next t ∧ t.env = s.env.afterKey ∧
      ChangesOnly [.regs, .pc, .inputs] s t := by
  cases h : s.env.key with
  | none => exact ⟨_, execFX0A_none x h, rfl,
      ((changesOnly_afterKey s).seq (changesOnly_setPC _ _)).mono (by decide)⟩
  | some k => exact ⟨_, execFX0A_some x h, rfl,
      ((changesOnly_afterKey s).seq (changesOnly_setV _ _ _)).mono (by decide)⟩

/-- FX33 writes memory, or raises after the bytes before the first address outside it (R173). -/
theorem execFX33_next (x : Reg) (s : State) :
    ∃ t, execFX33 x s = .next t ∧ ChangesOnly [.memory, .fault] s t := by
  have hstore (u : State) (a : Nat) (b : Byte) : ChangesOnly [.memory, .fault] u (u.store a b) :=
    (changesOnly_store u a b).mono (by decide)
  have hraise (u : State) (f : Fault) : ChangesOnly [.memory, .fault] u (u.raise f) :=
    (changesOnly_raise u f).mono (by decide)
  obtain ⟨-, h⟩ | ⟨-, h⟩ | ⟨-, h⟩ | ⟨-, h⟩ := execFX33_cases x s
  · exact ⟨_, h, ((hstore _ _ _).trans (hstore _ _ _)).trans (hstore _ _ _)⟩
  · exact ⟨_, h, ((hstore _ _ _).trans (hstore _ _ _)).trans (hraise _ _)⟩
  · exact ⟨_, h, (hstore _ _ _).trans (hraise _ _)⟩
  · exact ⟨_, h, hraise _ _⟩

/-! ### What any instruction does -/

/-- Every instruction answers a next state and writes no part but those of `writtenParts` (R11, R39). -/
theorem exec_next (i : Instr) (s : State) :
    ∃ t, exec i s = .next t ∧ ChangesOnly (writtenParts i) s t := by
  cases i with
  | op00E0 => exact ⟨_, rfl, changesOnly_clearCells s⟩
  | op00EE => exact exec00EE_next s
  | op2NNN nnn => exact exec2NNN_next nnn s
  | op1NNN | opBNNN => exact ⟨_, rfl, changesOnly_setPC s _⟩
  | op3XNN | op4XNN | op5XY0 | op9XY0 => exact ⟨_, rfl, changesOnly_skipIf s _⟩
  | op6XNN | op7XNN | op8XY0 | op8XY1 | op8XY2 | op8XY3 | opFX07 =>
    exact ⟨_, rfl, changesOnly_setV s _ _⟩
  | op8XY4 | op8XY5 | op8XY6 | op8XY7 | op8XYE => exact ⟨_, rfl, changesOnly_setV_setV s _ _ _ _⟩
  | opANNN | opFX1E | opFX29 => exact ⟨_, rfl, changesOnly_setI s _⟩
  | opCXNN =>
    exact ⟨_, rfl, ((changesOnly_afterRand s).seq (changesOnly_setV _ _ _)).mono (by simp [writtenParts])⟩
  | opDXYN x y n =>
    exact ⟨_, rfl, ((changesOnly_setV s 15 0).seq (changesOnly_drawRows x y n 0 _)).mono
      (by simp [writtenParts])⟩
  | opEX9E | opEXA1 =>
    exact ⟨_, rfl, ((changesOnly_afterKey s).seq (changesOnly_skipIf _ _)).mono (by simp [writtenParts])⟩
  | opFX0A x =>
    obtain ⟨t, hx, -, ht⟩ := execFX0A_next x s
    exact ⟨t, hx, ht⟩
  | opFX15 => exact ⟨_, rfl, changesOnly_setDT s _⟩
  | opFX18 => exact ⟨_, rfl, changesOnly_setST s _⟩
  | opFX33 x => exact execFX33_next x s
  | opFX55 | opFX65 | op0NNN => exact ⟨_, rfl, changesOnly_raise s _⟩

/-- The parts an instruction does not write are the same in its next state. -/
theorem exec_changesOnly {i : Instr} {s t : State} (h : exec i s = .next t) :
    ChangesOnly (writtenParts i) s t := by
  obtain ⟨u, hu, hsu⟩ := exec_next i s
  obtain rfl : u = t := by simpa [hu] using h
  exact hsu

/-- No instruction moves SND: only a tick does (R33, R242). -/
theorem exec_snd {i : Instr} {s t : State} (h : exec i s = .next t) : t.snd = s.snd :=
  exec_changesOnly h .sound (by cases i <;> simp [writtenParts])

/-- No instruction emits an audio signal (R243; log 9). -/
theorem exec_signal {i : Instr} {s t : State} (h : exec i s = .next t) : t.signal = s.signal :=
  exec_changesOnly h .signal (by cases i <;> simp [writtenParts])

/-! ### What the dispatch of any word does -/

/-- A word of no row of R77 raises UnsupportedInstruction with the word itself, by the row 0NNN or by none
(R78, R79). -/
theorem dispatchWord_of_no_row {w : Word} (hw : ∀ r ∈ rowsR77, w &&& r.mask ≠ r.bits) (s : State) :
    dispatchWord w s = .next (s.raise (.unsupportedInstruction w)) := by
  unfold dispatchWord
  cases hd : decode w with
  | error e => rfl
  | ok i =>
    obtain ⟨r, hr, hacc, rfl⟩ := row_of_decode hd
    have hne : r ∉ rowsR77 := fun hm => hw r hm (by simpa [Row.accepts] using hacc)
    obtain rfl : r = row0NNN := by simpa [decodeTable, hne] using hr
    have henc : encode (.op0NNN (fieldNNN w)) = w := encode_of_row row0NNN hr w hacc
    show exec0NNN (fieldNNN w) s = _
    rw [exec0NNN, henc, State.raiseUnsupported_eq]

/-- Every word, decoded or not, dispatches to a next state (R76, R78). -/
theorem dispatchWord_next (w : Word) (s : State) : ∃ t, dispatchWord w s = .next t := by
  unfold dispatchWord
  cases decode w with
  | ok i =>
    obtain ⟨t, ht, -⟩ := exec_next i s
    exact ⟨t, ht⟩
  | error e => exact ⟨_, rfl⟩

/-- A row of R77 is the encoding of the instruction it builds (R76, R77). -/
theorem encodes_of_row {mask bits : Word} {build : Word → Instr}
    (h : (⟨mask, bits, build⟩ : Row) ∈ rowsR77) : Encodes mask bits build :=
  fun _ hw => decode_of_row h (by simpa [Row.accepts] using hw)

/-! ### What a cycle does with the sound -/

/-- A cycle leaves SND and the signal as its tick stage does, or its fetch raised: then nothing is emitted and
SND stays (R72, R73, R240). -/
theorem step_sound {s t : State} (h : step s = .next t) :
    (t.snd = (tickStage (advance (beginCycle s))).snd ∧
      t.signal = (tickStage (advance (beginCycle s))).signal) ∨
    (t.snd = s.snd ∧ t.signal = none) := by
  obtain ⟨-, ⟨-, i, -, hx⟩ | ⟨-, w, -, rfl⟩ | ⟨-, rfl⟩⟩ := step_cases h
  · exact .inl ⟨exec_snd hx, exec_signal hx⟩
  · exact .inl ⟨rfl, rfl⟩
  · exact .inr ⟨rfl, rfl⟩

/-! ### Keys -/

/-- The key test of EX9E and EXA1 compares the code of a latched key with the whole register (R210, R211). -/
theorem keyIs_iff (k : Option Key) (b : Byte) : keyIs k b = true ↔ k.map Fin.val = some b.toNat := by
  cases k <;> simp [keyIs]

theorem keyByte_toNat (c : Key) : (keyByte c).toNat = c.val := by
  simp only [keyByte, BitVec.toNat_ofNat]
  omega

end Sys2Proof.Machine
end

section
/-! SUPPORT. The obligations of spec/00_scope.md. -/

namespace Sys2Proof.Machine

/-- Settles O8: such a word is 0NNN or no instruction at all, and both raise with the word. -/
theorem unmatchedWordFaultsWithNoOtherEffect : Obligations.UnmatchedWordFaultsWithNoOtherEffect :=
  fun _ s hw => ⟨_, dispatchWord_of_no_row hw s, rfl, changesOnly_raise s _⟩

/-- Settles O10: the fetch raises, which is a next state, or the fetched word is dispatched to one. -/
theorem runningCoreAlwaysCompletesItsCycle : Obligations.RunningCoreAlwaysCompletesItsCycle := by
  intro s hf
  simp only [step, cycle, hf, runCycle]
  by_cases hp : (beginCycle s).pc.toNat + 1 < 4096
  · rw [fetch_ok hp]
    exact dispatchWord_next _ _
  · rw [fetch_raised hp]
    exact ⟨_, rfl⟩

/-- Settles O13: no instruction touches SND or the signal, so a cycle's edges are those of its tick stage. -/
theorem audioSignalsAreEdges : Obligations.AudioSignalsAreEdges := by
  intro s t h
  obtain ⟨hsnd, hsig⟩ | ⟨hsnd, hsig⟩ := step_sound h
  · rw [hsnd, hsig]
    exact tick_edges (advance (beginCycle s)) rfl
  · rw [hsnd, hsig]
    cases s.snd <;> simp

/-- Settles O26: the four that sample do so once, and no other instruction writes the inputs. -/
theorem instructionsSampleTheirInputsOnce : Obligations.InstructionsSampleTheirInputsOnce := by
  intro i s t h
  cases i with
  | opCXNN x nn =>
    obtain rfl := Host.Outcome.next.inj h
    exact .inl ⟨⟨x, nn, rfl⟩, rfl⟩
  | opEX9E x =>
    obtain rfl := Host.Outcome.next.inj h
    exact .inr (.inl ⟨⟨x, .inl rfl⟩, rfl⟩)
  | opEXA1 x =>
    obtain rfl := Host.Outcome.next.inj h
    exact .inr (.inl ⟨⟨x, .inr (.inl rfl)⟩, rfl⟩)
  | opFX0A x =>
    obtain ⟨u, hu, henv, -⟩ := execFX0A_next x s
    obtain rfl := Host.Outcome.next.inj (hu.symm.trans h)
    exact .inr (.inl ⟨⟨x, .inr (.inr rfl)⟩, henv⟩)
  | _ => exact .inr (.inr ⟨by simp, by simp, exec_changesOnly h .inputs (by simp [writtenParts])⟩)

/-- Settles O42: the draw comes first, then V[X] takes the masked byte. -/
theorem randomByteIsMasked : Obligations.RandomByteIsMasked := by
  refine ⟨encodes_of_row (by simp [rowsR77]), fun x nn r s hr => ⟨_, rfl, fun j => ?_, rfl, ?_, ?_⟩⟩
  · rw [State.V_setV_self, hr, BitVec.getLsbD_and]
  · exact regsExcept_setV s.afterRand x _
  · exact exec_changesOnly (i := .opCXNN x nn) rfl

/-- Settles O52: the key test is the comparison of the sample's code with V[X]. -/
theorem skipOnKey : Obligations.SkipOnKey := by
  refine ⟨encodes_of_row (by simp [rowsR77]), encodes_of_row (by simp [rowsR77]), fun x s =>
    ⟨⟨_, rfl, ?_, rfl, exec_changesOnly (i := .opEX9E x) rfl⟩,
      ⟨_, rfl, ?_, rfl, exec_changesOnly (i := .opEXA1 x) rfl⟩⟩⟩
  all_goals
    simp only [State.skipIf_pc, State.afterKey_pc, ← keyIs_iff]
    cases keyIs s.env.key (s.V x) <;> simp

/-- Settles O54: no key steps PC back, a key loads its code. -/
theorem waitForKey : Obligations.WaitForKey := by
  refine ⟨encodes_of_row (by simp [rowsR77]), fun x s => ⟨fun hk => ?_, fun k hk => ?_⟩⟩
  · exact ⟨_, execFX0A_none x hk, rfl, rfl,
      ((changesOnly_afterKey s).seq (changesOnly_setPC _ _)).mono (by decide)⟩
  · refine ⟨_, execFX0A_some x hk, ?_, regsExcept_setV s.afterKey x _, rfl,
      ((changesOnly_afterKey s).seq (changesOnly_setV _ _ _)).mono (by decide)⟩
    rw [State.V_setV_self, keyByte_toNat]

end Sys2Proof.Machine
end

section
/-! SUPPORT. What an instruction leaves each part of the state as: PC, the stack, SP, memory as a list of
cells, and FAULT (spec/10_state.md). -/

namespace Sys2Proof.Machine

/-- An outcome has at most one next state. -/
theorem next_unique {o : Outcome} {u t : State} (hu : o = .next u) (ht : o = .next t) : u = t :=
  Host.Outcome.next.inj (hu.symm.trans ht)

/-- A part that differs after an instruction is one that its rule writes. -/
theorem mem_writtenParts_of_changed {i : Instr} {s t : State} {p : Part} (h : exec i s = .next t)
    (hne : ¬ p.same s t) : p ∈ writtenParts i :=
  not_imp_comm.1 (exec_changesOnly h p) hne

/-- 00EE: the underflow, or PC from the entry that the lowered SP names (R100, R234). -/
theorem exec00EE_cases (s : State) :
    (s.sp.val = 0 ∧ exec00EE s = .next (s.raise (.stackUnderflow 0))) ∨
    ∃ (k : Fin 16) (t : State), s.sp.val = k.val + 1 ∧ exec00EE s = .next t ∧ t.sp.val = k.val ∧
      t = { s with sp := t.sp, pc := s.S k } := by
  by_cases h0 : s.sp.val = 0
  · exact .inl ⟨h0, by rw [exec00EE, pop_raised h0]; rfl⟩
  · obtain ⟨k, hk⟩ := Nat.exists_eq_succ_of_ne_zero h0
    have hk16 : k < 16 := by omega
    obtain ⟨t, hpop, hsp, ht⟩ := pop_ok k hk16 hk
    refine .inr ⟨⟨k, hk16⟩, t.setPC (s.S ⟨k, hk16⟩), hk, by rw [exec00EE, hpop]; rfl, hsp, ?_⟩
    rw [ht]
    rfl

/-- 2NNN: the overflow, or the advanced PC in the entry at SP (R102, R233). -/
theorem exec2NNN_cases (nnn : Addr) (s : State) :
    (s.sp.val = 16 ∧ exec2NNN nnn s = .next (s.raise (.stackOverflow 16))) ∨
    ∃ t, exec2NNN nnn s = .next t ∧ t.sp.val = s.sp.val + 1 ∧
      (∀ k : Fin 16, t.S k = if k.val = s.sp.val then s.pc else s.S k) ∧
      t = { s with stack := t.stack, sp := t.sp, pc := zextAddr nnn } := by
  by_cases h : s.sp.val < 16
  · obtain ⟨t, hpush, hsp, hS, ht⟩ := push_ok h s.pc
    refine .inr ⟨t.setPC (zextAddr nnn), by rw [exec2NNN, hpush]; rfl, hsp, hS, ?_⟩
    rw [ht]
    rfl
  · have h16 : s.sp.val = 16 := by omega
    exact .inl ⟨h16, by rw [exec2NNN, push_raised h, h16]; rfl⟩

/-- Memory is the same list of cells after any instruction but FX33, so it stays canonical; `Part.memory`
compares bytes only. -/
theorem exec_mem {i : Instr} {s t : State} (h : exec i s = .next t) (hi : ∀ x, i ≠ .opFX33 x) :
    t.mem = s.mem := by
  cases i with
  | op00EE =>
    obtain ⟨-, hu⟩ | ⟨k, u, -, hu, -, hf⟩ := exec00EE_cases s <;>
      obtain rfl := next_unique hu h
    · rfl
    · rw [hf]
  | op2NNN nnn =>
    obtain ⟨-, hu⟩ | ⟨u, hu, -, -, hf⟩ := exec2NNN_cases nnn s <;>
      obtain rfl := next_unique hu h
    · rfl
    · rw [hf]
  | opDXYN x y n =>
    obtain rfl := Host.Outcome.next.inj h
    rw [drawRows_frame]
    rfl
  | opFX0A x =>
    cases hk : s.env.key with
    | none =>
      obtain rfl := next_unique (execFX0A_none x hk) h
      rfl
    | some k =>
      obtain rfl := next_unique (execFX0A_some x hk) h
      rfl
  | opFX33 x => exact absurd rfl (hi x)
  | _ =>
    obtain rfl := Host.Outcome.next.inj h
    rfl

/-- Every instruction keeps memory canonical: FX33 stores inside memory, the others store nothing (R31). -/
theorem exec_mem_wf {i : Instr} {s t : State} (h : exec i s = .next t) (hm : s.mem.wf) : t.mem.wf := by
  by_cases hi : ∃ x, i = .opFX33 x
  · obtain ⟨x, rfl⟩ := hi
    have hwrite {m : Memory} (hm : m.wf) {a : Nat} (ha : a < 4096) (v : Byte) : (m.write a v).wf :=
      Memory.wf_write hm ha v
    obtain ⟨h2, hu⟩ | ⟨-, hu⟩ | ⟨-, hu⟩ | ⟨-, hu⟩ := execFX33_cases x s <;>
      obtain rfl := next_unique hu h
    · exact hwrite (hwrite (hwrite hm (by omega) _) (by omega) _) h2 _
    · exact hwrite (hwrite hm (by omega) _) (by omega) _
    · exact hwrite hm (by omega) _
    · exact hm
  · rw [exec_mem h fun x hx => hi ⟨x, hx⟩]
    exact hm

/-- A stack entry stays, or a call has put its return address there (R25, R102). -/
theorem exec_S_cases {i : Instr} {s t : State} (h : exec i s = .next t) (k : Fin 16) :
    t.S k = s.S k ∨ t.S k = s.pc := by
  cases i with
  | op2NNN nnn =>
    obtain ⟨-, hu⟩ | ⟨u, hu, -, hS, -⟩ := exec2NNN_cases nnn s <;>
      obtain rfl := next_unique hu h
    · exact .inl rfl
    · rw [hS]
      split
      · exact .inr rfl
      · exact .inl rfl
  | _ => exact .inl (exec_changesOnly h .stack (by simp [writtenParts]) k)

/-- FX33 leaves FAULT, or raises at the first of its three addresses outside memory (R173, R232). -/
theorem execFX33_fault {x : Reg} {s t : State} (h : execFX33 x s = .next t) :
    t.fault = s.fault ∨ ∃ k, k < 3 ∧ 4096 ≤ s.i.toNat + k ∧
      t.fault = some (.memoryOutOfRange (s.i.toNat + k)) := by
  obtain ⟨-, hu⟩ | ⟨hi, hu⟩ | ⟨hi, hu⟩ | ⟨hi, hu⟩ := execFX33_cases x s <;>
    obtain rfl := next_unique hu h
  · exact .inl rfl
  · exact .inr ⟨2, by omega, by omega, by rw [hi]; rfl⟩
  · exact .inr ⟨1, by omega, by omega, by rw [hi]; rfl⟩
  · exact .inr ⟨0, by omega, hi, rfl⟩

/-- FAULT stays, or the instruction raised the one fault of its kind (R230 to R234). -/
theorem exec_fault_cases {i : Instr} {s t : State} (h : exec i s = .next t) :
    t.fault = s.fault ∨
    (i = .op00EE ∧ s.sp.val = 0 ∧ t.fault = some (.stackUnderflow 0)) ∨
    (∃ nnn, i = .op2NNN nnn ∧ s.sp.val = 16 ∧ t.fault = some (.stackOverflow 16)) ∨
    (∃ x y n k, i = .opDXYN x y n ∧ k < n.val ∧ 4096 ≤ s.i.toNat + k ∧
      t.fault = some (.memoryOutOfRange (s.i.toNat + k))) ∨
    (∃ x k, i = .opFX33 x ∧ k < 3 ∧ 4096 ≤ s.i.toNat + k ∧
      t.fault = some (.memoryOutOfRange (s.i.toNat + k))) ∨
    (i.executes = false ∧ t.fault = some (.unsupportedInstruction (encode i))) := by
  cases i with
  | op00EE =>
    obtain ⟨h0, hu⟩ | ⟨k, u, -, hu, -, hf⟩ := exec00EE_cases s <;>
      obtain rfl := next_unique hu h
    · exact .inr (.inl ⟨rfl, h0, rfl⟩)
    · exact .inl (by rw [hf])
  | op2NNN nnn =>
    obtain ⟨h16, hu⟩ | ⟨u, hu, -, -, hf⟩ := exec2NNN_cases nnn s <;>
      obtain rfl := next_unique hu h
    · exact .inr (.inr (.inl ⟨nnn, rfl, h16, rfl⟩))
    · exact .inl (by rw [hf])
  | opDXYN x y n =>
    obtain rfl := Host.Outcome.next.inj h
    obtain hf | ⟨k, -, hk, hout, hf⟩ := drawRows_fault x y n.val 0 (s.setVF 0)
    · exact .inl hf
    · exact .inr (.inr (.inr (.inl ⟨x, y, n, k, rfl, by omega, hout, hf⟩)))
  | opFX33 x =>
    obtain hf | ⟨k, hk, hout, hf⟩ := execFX33_fault h
    · exact .inl hf
    · exact .inr (.inr (.inr (.inr (.inl ⟨x, k, rfl, hk, hout, hf⟩))))
  | opFX55 | opFX65 | op0NNN =>
    obtain rfl := Host.Outcome.next.inj h
    exact .inr (.inr (.inr (.inr (.inr ⟨rfl, rfl⟩))))
  | _ => exact .inl (exec_changesOnly h .fault (by simp [writtenParts]))

end Sys2Proof.Machine
end

section
/-! SUPPORT. The obligations of spec/10_state.md on who writes what. -/

namespace Sys2Proof.Machine

/-- A write of V[X] that moves VF has X = F. -/
theorem eq_of_VF_setV_ne {s : State} {x : Reg} {b : Byte} (h : (s.setV x b).V 0xF ≠ s.V 0xF) :
    x = 0xF := by
  by_contra hx
  exact h (State.V_setV_ne s b (Ne.symm hx))

/-- Settles O18: one destination register per instruction, and the flag writers are listed. -/
theorem onlyFlagWritersAndDestinationsWriteVF :
    Obligations.OnlyFlagWritersAndDestinationsWriteVF := by
  intro i s t h hne
  have hregs : Part.regs ∈ writtenParts i := mem_writtenParts_of_changed h fun hs => hne (hs 0xF)
  cases i with
  | op8XY4 | op8XY5 | op8XY6 | op8XY7 | op8XYE => simp
  | opDXYN => simp
  | op6XNN | op7XNN | op8XY0 | op8XY1 | op8XY2 | op8XY3 | opFX07 =>
    obtain rfl := Host.Outcome.next.inj h
    obtain rfl := eq_of_VF_setV_ne hne
    simp
  | opCXNN x nn =>
    obtain rfl := Host.Outcome.next.inj h
    obtain rfl := eq_of_VF_setV_ne (s := s.afterRand) hne
    simp
  | opFX0A x =>
    cases hk : s.env.key with
    | none =>
      obtain rfl := next_unique (execFX0A_none x hk) h
      exact absurd rfl hne
    | some k =>
      obtain rfl := next_unique (execFX0A_some x hk) h
      obtain rfl := eq_of_VF_setV_ne (s := s.afterKey) hne
      simp
  | _ => simp [writtenParts] at hregs

/-- Settles O19: the three are the instructions that write the index register. -/
theorem onlyIndexInstructionsWriteI : Obligations.OnlyIndexInstructionsWriteI := by
  intro i s t h hne
  have hmem : Part.index ∈ writtenParts i := mem_writtenParts_of_changed h hne
  cases i with
  | opANNN | opFX1E | opFX29 => simp
  | _ => simp [writtenParts] at hmem

/-- Settles O20: FX33 is the one instruction that writes memory. -/
theorem onlyBcdWritesMemory : Obligations.OnlyBcdWritesMemory := by
  intro i s t a h hne
  by_contra hi
  exact hne (by rw [exec_mem h fun x hx => hi ⟨x, hx⟩])

/-- A skip that moves PC passes over one word. -/
theorem pc_skipIf_of_ne {s : State} {c : Bool} (h : (s.skipIf c).pc ≠ s.pc) :
    (s.skipIf c).pc = s.pc + 2 := by
  cases c with
  | true => rfl
  | false => exact absurd rfl h

/-- Settles O21: a skip moves PC only when taken, and FX0A only with no key. -/
theorem onlyControlInstructionsWritePC : Obligations.OnlyControlInstructionsWritePC := by
  intro i s t h hne
  have hpc : Part.pc ∈ writtenParts i := mem_writtenParts_of_changed h hne
  cases i with
  | op00EE | op1NNN | op2NNN | opBNNN => simp
  | op3XNN x nn | op4XNN x nn =>
    obtain rfl := Host.Outcome.next.inj h
    exact .inr (.inr (.inl ⟨x, nn, by simp, pc_skipIf_of_ne hne⟩))
  | op5XY0 x y | op9XY0 x y =>
    obtain rfl := Host.Outcome.next.inj h
    exact .inr (.inr (.inr (.inl ⟨x, y, by simp, pc_skipIf_of_ne hne⟩)))
  | opEX9E x | opEXA1 x =>
    obtain rfl := Host.Outcome.next.inj h
    exact .inr (.inr (.inr (.inr (.inl ⟨x, by simp, pc_skipIf_of_ne (s := s.afterKey) hne⟩))))
  | opFX0A x =>
    cases hk : s.env.key with
    | none =>
      obtain rfl := next_unique (execFX0A_none x hk) h
      simp
    | some k =>
      obtain rfl := next_unique (execFX0A_some x hk) h
      exact absurd rfl hne
  | _ => simp [writtenParts] at hpc

/-- Settles O22: 2NNN alone writes entries; both move SP by one unless they raise, which leaves it. -/
theorem onlyCallAndReturnTouchTheStack : Obligations.OnlyCallAndReturnTouchTheStack := by
  refine fun i s t h => ⟨fun ⟨k, hk⟩ => ?_, fun hne => ?_⟩
  · have hstack : Part.stack ∈ writtenParts i := mem_writtenParts_of_changed h fun hs => hk (hs k)
    cases i with
    | op2NNN nnn => exact ⟨nnn, rfl⟩
    | _ => simp [writtenParts] at hstack
  · have hsp : Part.sp ∈ writtenParts i := mem_writtenParts_of_changed h hne
    cases i with
    | op00EE =>
      obtain ⟨-, hu⟩ | ⟨k, u, hk, hu, hsp, -⟩ := exec00EE_cases s <;> obtain rfl := next_unique hu h
      · exact absurd rfl hne
      · exact .inl ⟨rfl, by rw [hsp, hk]⟩
    | op2NNN nnn =>
      obtain ⟨-, hu⟩ | ⟨u, hu, hsp, -, -⟩ := exec2NNN_cases nnn s <;> obtain rfl := next_unique hu h
      · exact absurd rfl hne
      · exact .inr ⟨nnn, rfl, hsp⟩
    | _ => simp [writtenParts] at hsp

/-- Settles O23: each timer has one writer, and SND and the signal have none. -/
theorem onlyTimerInstructionsWriteTimers : Obligations.OnlyTimerInstructionsWriteTimers := by
  refine fun i s t h => ⟨fun hne => ?_, fun hne => ?_, exec_snd h, exec_signal h⟩
  · have hdt : Part.delay ∈ writtenParts i := mem_writtenParts_of_changed h hne
    cases i with
    | opFX15 x => exact ⟨x, rfl⟩
    | _ => simp [writtenParts] at hdt
  · have hst : Part.soundTimer ∈ writtenParts i := mem_writtenParts_of_changed h hne
    cases i with
    | opFX18 x => exact ⟨x, rfl⟩
    | _ => simp [writtenParts] at hst

/-- Settles O24: the two are the instructions that write the screen. -/
theorem onlyClearAndDrawWriteTheScreen : Obligations.OnlyClearAndDrawWriteTheScreen := by
  intro i s t x y h hne
  have hscreen : Part.screen ∈ writtenParts i := mem_writtenParts_of_changed h fun hs => hne (hs x y)
  cases i with
  | op00E0 | opDXYN => simp
  | _ => simp [writtenParts] at hscreen

end Sys2Proof.Machine
end

section
/-! SUPPORT. The invariant of spec/10_state.md over one cycle, field by field. -/

namespace Sys2Proof.Machine

/-- Every cycle keeps memory canonical (R31). -/
theorem step_mem_wf {s t : State} (h : step s = .next t) (hm : s.mem.wf) : t.mem.wf := by
  obtain ⟨-, ⟨-, i, -, hx⟩ | ⟨-, w, -, rfl⟩ | ⟨-, rfl⟩⟩ := step_cases h
  · exact exec_mem_wf hx hm
  · exact hm
  · exact hm

theorem zextAddr_toNat (nnn : Addr) : (zextAddr nnn).toNat = nnn.toNat :=
  BitVec.toNat_setWidth_of_le (by decide)

/-- The full-width sum of BNNN does not wrap (R59, D6). -/
theorem zextAddr_add_zextByte_toNat (nnn : Addr) (b : Byte) :
    (zextAddr nnn + zextByte b).toNat = nnn.toNat + b.toNat := by
  rw [BitVec.toNat_add, zextAddr_toNat, zextByte, BitVec.toNat_setWidth_of_le (by decide)]
  omega

/-- A PC one word past a fetched one does not wrap (R24). -/
theorem toNat_add_two {a : Word} (h : a.toNat ≤ 0x1000) : (a + 2).toNat = a.toNat + 2 := by
  bv_omega

/-- The next PC of an instruction is below 0x10FF: the largest target is BNNN's 0xFFF + 0xFF (R24, R107). -/
theorem exec_pc_lt {i : Instr} {s t : State} (h : exec i s = .next t) (hlo : 2 ≤ s.pc.toNat)
    (hhi : s.pc.toNat ≤ 0x1000) (hS : ∀ k, (s.S k).toNat ≤ 0x1000) : t.pc.toNat < 0x10FF := by
  by_cases hpc : t.pc = s.pc
  · rw [hpc]
    omega
  have hskip (htaken : t.pc = s.pc + 2) : t.pc.toNat < 0x10FF := by
    rw [htaken, toNat_add_two hhi]
    omega
  have htarget (nnn : Addr) : (zextAddr nnn).toNat < 0x10FF := by
    rw [zextAddr_toNat]
    omega
  obtain rfl | ⟨nnn, rfl | rfl | rfl⟩ | ⟨x, nn, -, ht⟩ | ⟨x, y, -, ht⟩ | ⟨x, -, ht⟩ | ⟨x, -, -, ht⟩ :=
    onlyControlInstructionsWritePC i s t h hpc
  · obtain ⟨-, hu⟩ | ⟨k, u, -, hu, -, hf⟩ := exec00EE_cases s <;> obtain rfl := next_unique hu h
    · exact absurd rfl hpc
    · rw [hf]
      exact Nat.lt_of_le_of_lt (hS k) (by decide)
  · obtain rfl := Host.Outcome.next.inj h
    exact htarget nnn
  · obtain ⟨-, hu⟩ | ⟨u, hu, -, -, hf⟩ := exec2NNN_cases nnn s <;> obtain rfl := next_unique hu h
    · exact absurd rfl hpc
    · rw [hf]
      exact htarget nnn
  · obtain rfl := Host.Outcome.next.inj h
    rw [State.setPC_pc, zextAddr_add_zextByte_toNat]
    omega
  · exact hskip ht
  · exact hskip ht
  · exact hskip ht
  · bv_omega

/-- The state an instruction runs on in a cycle whose fetch raises nothing: its PC is the next word's. -/
theorem tickStage_advance_beginCycle_pc {s : State} (hp : s.pc.toNat + 1 < 4096) :
    (tickStage (advance (beginCycle s))).pc.toNat = s.pc.toNat + 2 :=
  toNat_add_two (a := s.pc) (by omega)

/-- Every cycle keeps PC below 0x10FF: a PC that can be fetched at is below 0xFFF (R24, R73). -/
theorem step_pc_lt {s t : State} (h : step s = .next t) (hpc : s.pc.toNat < 0x10FF)
    (hS : ∀ k, (s.S k).toNat ≤ 0x1000) : t.pc.toNat < 0x10FF := by
  obtain ⟨-, ⟨hp, i, -, hx⟩ | ⟨hp, w, -, rfl⟩ | ⟨-, rfl⟩⟩ := step_cases h
  · have hnext := tickStage_advance_beginCycle_pc hp
    exact exec_pc_lt hx (by omega) (by omega) hS
  · rw [State.raise_pc, tickStage_advance_beginCycle_pc hp]
    omega
  · exact hpc

/-- Every cycle keeps the return addresses at or below 0x1000: a call pushes the PC after a fetched word
(R24, R102). -/
theorem step_S_le {s t : State} (h : step s = .next t) (hS : ∀ k, (s.S k).toNat ≤ 0x1000)
    (k : Fin 16) : (t.S k).toNat ≤ 0x1000 := by
  obtain ⟨-, ⟨hp, i, -, hx⟩ | ⟨-, w, -, rfl⟩ | ⟨-, rfl⟩⟩ := step_cases h
  · obtain hk | hk := exec_S_cases hx k
    · rw [hk]
      exact hS k
    · rw [hk, tickStage_advance_beginCycle_pc hp]
      omega
  · exact hS k
  · exact hS k

/-- The fault that a decoded instruction raises has well-formed info (R231 to R234). -/
theorem exec_fault_wf {i : Instr} {s t : State} {w : Word} (hi : decode w = .ok i)
    (h : exec i s = .next t) (hs : s.fault = none) {f : Fault} (hf : t.fault = some f) : f.wf := by
  obtain hkept | hraised := exec_fault_cases h
  · simp [hkept, hs] at hf
  obtain ⟨-, -, ht⟩ | ⟨nnn, -, -, ht⟩ | ⟨x, y, n, k, -, -, hout, ht⟩ | ⟨x, k, -, -, hout, ht⟩ |
      ⟨hex, ht⟩ := hraised <;> obtain rfl := Option.some.inj (hf.symm.trans ht)
  · rfl
  · rfl
  · exact hout
  · exact hout
  · obtain ⟨r, hr, hacc, rfl⟩ := row_of_decode hi
    rw [encode_of_row r hr w hacc]
    intro j hj
    obtain rfl := Except.ok.inj (hi.symm.trans hj)
    exact hex

/-- FAULT after a cycle has well-formed info, whatever raised it (R230). -/
theorem step_fault_wf {s t : State} (h : step s = .next t) {f : Fault} (hf : t.fault = some f) :
    f.wf := by
  obtain ⟨hs, ⟨-, i, hi, hx⟩ | ⟨-, w, hw, rfl⟩ | ⟨-, rfl⟩⟩ := step_cases h
  · exact exec_fault_wf hi hx hs hf
  · obtain rfl := Option.some.inj hf
    exact fun i hi => absurd hi (hw i)
  · obtain rfl := Option.some.inj hf
    exact Nat.le_max_right _ _

/-- A signal that a cycle emitted is Start exactly when SND plays then (R243). -/
theorem step_signal_accord {s t : State} (h : step s = .next t) {g : AudioSignal}
    (hg : t.signal = some g) : g = .start ↔ t.snd = .playing := by
  obtain ⟨hstart, hstop, -, -⟩ := audioSignalsAreEdges s t h
  cases g with
  | start => simp [(hstart.1 hg).2]
  | stop => simp [(hstop.1 hg).2]

/-- Settles O14: field by field, from what each instruction leaves of memory, PC, the stack and FAULT, and
from the edges of the sound. -/
theorem everyCycleKeepsTheInvariant : Obligations.EveryCycleKeepsTheInvariant :=
  fun _ _ hinv h =>
    { mem := step_mem_wf h hinv.mem
      pc := step_pc_lt h hinv.pc hinv.stack
      stack := step_S_le h hinv.stack
      fault := fun _ => step_fault_wf h
      signal := fun _ => step_signal_accord h }

end Sys2Proof.Machine
end

section
/-! SUPPORT. The obligations of spec/10_state.md on a Faulted core, on reset and on the read accessors. -/

namespace Sys2Proof.Machine

/-- Settles O9: both operations check FAULT first. -/
theorem faultedCoreTakesNoStep : Obligations.FaultedCoreTakesNoStep := by
  intro s f hf
  refine ⟨?_, fun w => ?_⟩
  · rw [step, cycle, hf]
  · rw [execute, hf]

/-! ### The image under the font -/

theorem font_length (font2F : Vector Byte 70) : (Config.font font2F).length = 80 := by
  simp [Config.font, Config.font01]

theorem overlayFont_length (font2F : Vector Byte 70) {image : List Byte}
    (h : image.length = Config.memorySize) : (overlayFont font2F image).length = Config.memorySize := by
  rw [overlayFont, List.length_append, List.length_drop, font_length, h]
  rfl

/-- Below 0x050 the overlaid image is the font (R36, R272). -/
theorem overlayFont_getElem?_of_lt (font2F : Vector Byte 70) (image : List Byte) {a : Nat} (h : a < 80) :
    (overlayFont font2F image)[a]? = (Config.font font2F)[a]? :=
  List.getElem?_append_left (by rwa [font_length])

/-- From 0x050 on the overlaid image is the image (R272). -/
theorem overlayFont_getElem?_of_le (font2F : Vector Byte 70) (image : List Byte) {a : Nat} (h : 80 ≤ a) :
    (overlayFont font2F image)[a]? = image[a]? := by
  rw [overlayFont, List.getElem?_append_right (by rwa [font_length]), font_length, List.getElem?_drop,
    Nat.add_sub_cancel' h]

/-- The first ten bytes of the font are the glyphs of 0 and 1 (R36). -/
theorem font_getElem?_of_lt (font2F : Vector Byte 70) {a : Nat} (h : a < 10) :
    (Config.font font2F)[a]? = Config.font01[a]? :=
  List.getElem?_append_left h

/-- The other seventy are FONT_2_F (R36). -/
theorem font_getElem?_add (font2F : Vector Byte 70) (k : Fin 70) :
    (Config.font font2F)[10 + k.val]? = some font2F[k] := by
  rw [Config.font, List.getElem?_append_right (by simp [Config.font01])]
  simp [Config.font01]

/-- `Reset` of an image of the right size (R270, R271). -/
theorem resetWith_ok (font2F : Vector Byte 70) (env : Env) {image : List Byte}
    (h : image.length = Config.memorySize) : resetWith font2F env image =
      .ok { State.reset with mem := Memory.load 0 (overlayFont font2F image), env := env } :=
  if_pos h

/-- Memory after `Reset` reads as the overlaid image (R271). -/
theorem read_load_overlayFont (font2F : Vector Byte 70) {image : List Byte}
    (h : image.length = Config.memorySize) {a : Nat} (ha : a < 4096) :
    some ((Memory.load 0 (overlayFont font2F image)).read a) = (overlayFont font2F image)[a]? := by
  have hlen : a < (overlayFont font2F image).length := by
    rw [overlayFont_length font2F h]
    exact ha
  have hread := Memory.read_load (a := 0) a hlen
  rw [Nat.zero_add] at hread
  rw [hread, List.getElem?_eq_getElem hlen]

/-- Settles O56: the bytes are those of the overlaid image, the other fields those of `State.reset`. -/
theorem resetBuildsTheInitialState : Obligations.ResetBuildsTheInitialState := by
  refine fun font2F env image => ⟨fun h => if_neg h, fun h => ⟨_, resetWith_ok font2F env h, ?_⟩⟩
  have hread {a : Nat} (ha : a < 4096) := read_load_overlayFont font2F h ha
  refine ⟨fun a ha => ?_, fun k => ?_, fun a ha ha' => ?_, fun r => ?_, rfl, rfl, fun k => ?_, rfl, rfl,
    rfl, fun x y => ?_, rfl, rfl⟩
  · rw [hread (by omega), overlayFont_getElem?_of_lt _ _ (by omega), font_getElem?_of_lt _ ha]
    rfl
  · apply Option.some.inj
    rw [hread (by omega), overlayFont_getElem?_of_lt _ _ (by omega), font_getElem?_add]
  · rw [hread ha', overlayFont_getElem?_of_le _ _ ha]
  · simp [State.V, State.reset]
  · simp [State.S, State.reset]
  · simp [State.cell, State.reset]

/-- The overlaid zero image holds at each address what it reads as unlisted (logs 4, 5). -/
theorem overlayFont_zero_getElem? {a : Nat} (h : a < 4096) :
    (overlayFont Config.font2F (List.replicate 4096 0))[a]? = some (Memory.unlisted a) := by
  rw [Memory.unlisted, List.getD_eq_getElem?_getD]
  by_cases h80 : a < 80
  · rw [overlayFont_getElem?_of_lt _ _ h80, List.getElem?_eq_getElem (by rwa [font_length])]
    rfl
  · rw [overlayFont_getElem?_of_le _ _ (by omega), List.getElem?_replicate_of_lt h,
      List.getElem?_eq_none (by rw [font_length]; omega)]
    rfl

/-- Settles O57: the overlaid zero image leaves memory nothing to list. -/
theorem stateResetIsResetOfTheZeroImage : Obligations.StateResetIsResetOfTheZeroImage := by
  have himage : (List.replicate 4096 (0 : Byte)).length = Config.memorySize := List.length_replicate
  have hnil : Memory.load 0 (overlayFont Config.font2F (List.replicate 4096 0)) = [] := by
    refine Memory.load_eq_nil fun k hk => Option.some.inj ?_
    rw [← List.getElem?_eq_getElem hk, Nat.zero_add]
    rw [overlayFont_length _ himage] at hk
    exact overlayFont_zero_getElem? hk
  rw [Obligations.StateResetIsResetOfTheZeroImage, resetWith_ok _ _ himage, hnil]
  rfl

/-! ### The read accessors -/

/-- The rows that `getFramebuffer` joins have 64 cells each. -/
theorem length_of_mem_fb_rows {s : State} {r : List Bool} (h : r ∈ s.fb.toList.map Vector.toList) :
    r.length = 64 := by
  obtain ⟨v, -, rfl⟩ := List.mem_map.1 h
  exact Vector.length_toList

/-- The framebuffer has 2048 cells (R32). -/
theorem getFramebuffer_length (s : State) : (getFramebuffer s).length = 2048 := by
  rw [getFramebuffer, List.length_flatten, List.sum_eq_card_nsmul _ 64 (by simp)]
  simp

/-- Cell (x, y) stands at `x + y*64` (R32, R253). -/
theorem getFramebuffer_getElem? (s : State) (x : Fin 64) (y : Fin 32) :
    (getFramebuffer s)[x.val + y.val * 64]? = some (s.cell x y) := by
  rw [getFramebuffer, getElem?_flatten_of_length _ (fun _ => length_of_mem_fb_rows) x.isLt]
  simp [State.cell]

/-- Settles O59: memory is read in address order and the cells row by row. -/
theorem accessorsReadTheState : Obligations.AccessorsReadTheState := by
  refine fun s => ⟨fun i h => dif_pos h, fun i h => dif_neg (by omega), rfl, rfl, rfl, ?_, fun a ha => ?_,
    getFramebuffer_length s, getFramebuffer_getElem? s⟩
  · simp [getMemory, Config.memorySize]
  · simp [getMemory, Config.memorySize, ha]

end Sys2Proof.Machine
end

section
/-! SUPPORT. Bytes and words of the encoding: a word from its two bytes, and every instruction read back from
its word (spec/20_memory.md R50, spec/30_encoding.md R70, R77). -/

namespace Sys2Proof

/-- Big-endian: the first byte is the more significant (R50). -/
theorem wordOfBytes_toNat (hi lo : Byte) : (wordOfBytes hi lo).toNat = hi.toNat * 256 + lo.toNat := by
  rw [wordOfBytes, BitVec.toNat_append, ← Nat.shiftLeft_add_eq_or_of_lt lo.isLt, Nat.shiftLeft_eq]

/-- The two bytes of a word make it up again (R50). -/
@[simp] theorem wordOfBytes_highByte_lowByte (w : Word) : wordOfBytes (highByte w) (lowByte w) = w :=
  BitVec.extractLsb'_append_extractLsb' (w := 8) (len := 8)

/-- Every instruction's word matches a row that builds it back, by the lemma of each (R77). -/
theorem encodeLaw_statement : ∀ i : Instr, Laws.EncodeLaw.Statement i
  | .op00E0 => Laws.EncodeLaw.op00E0
  | .op00EE => Laws.EncodeLaw.op00EE
  | .op1NNN nnn => Laws.EncodeLaw.op1NNN nnn
  | .op2NNN nnn => Laws.EncodeLaw.op2NNN nnn
  | .op3XNN x nn => Laws.EncodeLaw.op3XNN x nn
  | .op4XNN x nn => Laws.EncodeLaw.op4XNN x nn
  | .op5XY0 x y => Laws.EncodeLaw.op5XY0 x y
  | .op6XNN x nn => Laws.EncodeLaw.op6XNN x nn
  | .op7XNN x nn => Laws.EncodeLaw.op7XNN x nn
  | .op8XY0 x y => Laws.EncodeLaw.op8XY0 x y
  | .op8XY1 x y => Laws.EncodeLaw.op8XY1 x y
  | .op8XY2 x y => Laws.EncodeLaw.op8XY2 x y
  | .op8XY3 x y => Laws.EncodeLaw.op8XY3 x y
  | .op8XY4 x y => Laws.EncodeLaw.op8XY4 x y
  | .op8XY5 x y => Laws.EncodeLaw.op8XY5 x y
  | .op8XY6 x y => Laws.EncodeLaw.op8XY6 x y
  | .op8XY7 x y => Laws.EncodeLaw.op8XY7 x y
  | .op8XYE x y => Laws.EncodeLaw.op8XYE x y
  | .op9XY0 x y => Laws.EncodeLaw.op9XY0 x y
  | .opANNN nnn => Laws.EncodeLaw.opANNN nnn
  | .opBNNN nnn => Laws.EncodeLaw.opBNNN nnn
  | .opCXNN x nn => Laws.EncodeLaw.opCXNN x nn
  | .opDXYN x y n => Laws.EncodeLaw.opDXYN x y n
  | .opEX9E x => Laws.EncodeLaw.opEX9E x
  | .opEXA1 x => Laws.EncodeLaw.opEXA1 x
  | .opFX07 x => Laws.EncodeLaw.opFX07 x
  | .opFX0A x => Laws.EncodeLaw.opFX0A x
  | .opFX15 x => Laws.EncodeLaw.opFX15 x
  | .opFX18 x => Laws.EncodeLaw.opFX18 x
  | .opFX1E x => Laws.EncodeLaw.opFX1E x
  | .opFX29 x => Laws.EncodeLaw.opFX29 x
  | .opFX33 x => Laws.EncodeLaw.opFX33 x
  | .opFX55 x => Laws.EncodeLaw.opFX55 x
  | .opFX65 x => Laws.EncodeLaw.opFX65 x
  | .op0NNN nnn => Laws.EncodeLaw.op0NNN nnn

/-- A well-formed instruction is decoded from its word: its row is one of R77, or it is 0NNN and its word is
neither 00E0 nor 00EE (R77, R79). -/
theorem decode_encode {i : Instr} (hi : i.wf = true) : decode (encode i) = .ok i := by
  obtain ⟨r, hr, hacc, hbuild⟩ := encodeLaw_statement i
  obtain hr | hr := List.mem_append.1 hr
  · rw [decode_of_row hr hacc, hbuild]
  · obtain rfl := List.mem_singleton.1 hr
    have hwf : (row0NNN.build (encode i)).wf = true := by rwa [hbuild]
    have hclass : encode i &&& 0xF000 = 0 := beq_iff_eq.1 hacc
    have hdec : decode (encode i) = .ok (row0NNN.build (encode i)) := by
      refine decode_class0 hclass (fun hw => ?_) (fun hw => ?_) <;>
      · rw [hw] at hwf
        exact absurd hwf (by decide)
    rw [hdec, hbuild]

/-- Reading the two bytes of a word, the rest being left, is decoding it (R70, R82). -/
theorem decodeBytes_highByte_lowByte {w : Word} {i : Instr} (h : decode w = .ok i) (rest : List Byte) :
    decodeBytes (highByte w :: lowByte w :: rest) = .ok (i, rest) := by
  rw [decodeBytes, wordOfBytes_highByte_lowByte, h]

end Sys2Proof
end

section
/-! SUPPORT. What FX33 leaves each byte of memory as, and a step whose fetch raises (spec/30_encoding.md R73,
spec/42_index_memory.md R173). -/

namespace Sys2Proof.Machine

/-! ### Decimal digits -/

theorem hundreds_toNat (v : Byte) : (hundreds v).toNat = v.toNat / 100 := by
  rw [hundreds, BitVec.toNat_ofNat]
  omega

theorem tens_toNat (v : Byte) : (tens v).toNat = v.toNat / 10 % 10 := by
  rw [tens, BitVec.toNat_ofNat]
  omega

theorem ones_toNat (v : Byte) : (ones v).toNat = v.toNat % 10 := by
  rw [ones, BitVec.toNat_ofNat]
  omega

/-! ### Stores -/

/-- A store inside memory keeps it canonical (R31). -/
theorem State.store_mem_wf {s : State} (hm : s.mem.wf) {a : Nat} (ha : a < 4096) (v : Byte) :
    (s.store a v).mem.wf :=
  Memory.wf_write hm ha v

/-- The byte stored reads as stored and every other one as before (R61). -/
theorem State.read_store {s : State} (hm : s.mem.wf) (a b : Nat) (v : Byte) :
    (s.store a v).mem.read b = if b = a then v else s.mem.read b :=
  Memory.read_write hm a b v

/-- A later byte of an access lies at no lower an address (R53). -/
theorem indexAddr_le_indexAddr (s : State) {j k : Nat} (h : j ≤ k) : indexAddr s j ≤ indexAddr s k :=
  Nat.add_le_add_left h _

/-- Every byte after FX33: the digit of its address, where that is inside memory, or as before (R173, D15). -/
theorem execFX33_read {x : Reg} {s t : State} (hm : s.mem.wf) (h : execFX33 x s = .next t) (a : Nat) :
    t.mem.read a =
      if a < 4096 ∧ a = indexAddr s 2 then ones (s.V x)
      else if a < 4096 ∧ a = indexAddr s 1 then tens (s.V x)
      else if a < 4096 ∧ a = indexAddr s 0 then hundreds (s.V x)
      else s.mem.read a := by
  simp only [indexAddr]
  obtain ⟨hi, hu⟩ | ⟨hi, hu⟩ | ⟨hi, hu⟩ | ⟨hi, hu⟩ := execFX33_cases x s <;>
    obtain rfl := next_unique hu h
  · have hm0 := State.store_mem_wf hm (a := s.i.toNat) (by omega) (hundreds (s.V x))
    have hm1 := State.store_mem_wf hm0 (a := s.i.toNat + 1) (by omega) (tens (s.V x))
    rw [State.read_store hm1, State.read_store hm0, State.read_store hm]
    grind
  · have hm0 := State.store_mem_wf hm (a := 4094) (by decide) (hundreds (s.V x))
    rw [State.raise_mem, State.read_store hm0, State.read_store hm]
    grind
  · rw [State.raise_mem, State.read_store hm]
    grind
  · rw [State.raise_mem]
    grind

section
variable {x : Reg} {s t : State} (hm : s.mem.wf) (h : execFX33 x s = .next t)
include hm h

theorem execFX33_read_hundreds (hi : indexAddr s 0 < 4096) :
    (t.mem.read (indexAddr s 0)).toNat = (s.V x).toNat / 100 := by
  rw [execFX33_read hm h, if_neg (by simp [indexAddr]), if_neg (by simp [indexAddr]),
    if_pos ⟨hi, rfl⟩, hundreds_toNat]

theorem execFX33_read_tens (hi : indexAddr s 1 < 4096) :
    (t.mem.read (indexAddr s 1)).toNat = (s.V x).toNat / 10 % 10 := by
  rw [execFX33_read hm h, if_neg (by simp [indexAddr]), if_pos ⟨hi, rfl⟩, tens_toNat]

theorem execFX33_read_ones (hi : indexAddr s 2 < 4096) :
    (t.mem.read (indexAddr s 2)).toNat = (s.V x).toNat % 10 := by
  rw [execFX33_read hm h, if_pos ⟨hi, rfl⟩, ones_toNat]

/-- A byte at none of the three addresses that are inside memory reads as before (R173). -/
theorem execFX33_read_other {a : Nat} (h0 : ¬ (a < 4096 ∧ a = indexAddr s 0))
    (h1 : ¬ (a < 4096 ∧ a = indexAddr s 1)) (h2 : ¬ (a < 4096 ∧ a = indexAddr s 2)) :
    t.mem.read a = s.mem.read a := by
  rw [execFX33_read hm h, if_neg h2, if_neg h1, if_neg h0]

end

/-- FX33 with I + 2 inside memory writes memory alone (R173). -/
theorem execFX33_changesOnly_memory {x : Reg} {s t : State} (h : execFX33 x s = .next t)
    (hi : indexAddr s 2 < 4096) : ChangesOnly [.memory] s t := by
  simp only [indexAddr] at hi
  obtain ⟨-, hu⟩ | ⟨hi', -⟩ | ⟨hi', -⟩ | ⟨hi', -⟩ := execFX33_cases x s
  · obtain rfl := next_unique hu h
    exact ((changesOnly_store _ _ _).trans (changesOnly_store _ _ _)).trans (changesOnly_store _ _ _)
  all_goals omega

/-- FX33 with I + 2 outside memory raises at the first of its addresses there (R173, R232). -/
theorem execFX33_fault_of_le {x : Reg} {s t : State} (h : execFX33 x s = .next t)
    (hi : 4096 ≤ indexAddr s 2) : t.fault = some (.memoryOutOfRange (max (indexAddr s 0) 4096)) := by
  simp only [indexAddr, Nat.add_zero] at hi ⊢
  obtain ⟨hi', -⟩ | ⟨hi', hu⟩ | ⟨hi', hu⟩ | ⟨hi', hu⟩ := execFX33_cases x s
  · omega
  all_goals
    obtain rfl := next_unique hu h
    rw [State.raise_fault]
    congr 2
    omega

/-! ### A cycle's start, and the fetch that raises -/

theorem changesOnly_beginCycle (s : State) : ChangesOnly [.signal] s (beginCycle s) := by
  intro p hp
  cases p <;> first | exact absurd (by decide) hp | simp [Part.same]

/-- The step of a running core whose fetch raises: no advance and no tick (R73, R237). -/
theorem step_of_fetch_outside {s : State} (hf : s.fault = none) (hp : ¬ s.pc.toNat + 1 < 4096) :
    step s = .next ((beginCycle s).raise (.memoryOutOfRange (max s.pc.toNat 4096))) := by
  rw [step, cycle, hf]
  show runCycle (beginCycle s) = _
  rw [runCycle, fetch_raised (s := beginCycle s) hp]
  rfl

end Sys2Proof.Machine
end

section
/-! SUPPORT. The obligations of spec/20_memory.md. -/

namespace Sys2Proof.Machine

/-- Settles O4: the two bytes make up the instruction's word, which decodes to it. -/
theorem decodingConsumesTwoBytes : Obligations.DecodingConsumesTwoBytes := by
  refine fun i rest hi => ⟨_, _, rfl, ?_, decodeBytes_highByte_lowByte (decode_encode hi) rest⟩
  rw [← wordOfBytes_toNat, wordOfBytes_highByte_lowByte]

/-- Settles O17: the fetch reads the memory that FX33 has written, and FX33 leaves I. -/
theorem storedDigitsAreFetchedAsCode : Obligations.StoredDigitsAreFetchedAsCode := by
  intro x s t hm hi h
  have hI : t.i = s.i := exec_changesOnly h .index (by simp [writtenParts])
  have hhundreds := execFX33_read_hundreds hm h (show s.i.toNat < 4096 by omega)
  have htens := execFX33_read_tens hm h (show s.i.toNat + 1 < 4096 by omega)
  rw [hI]
  refine ⟨_, fetch_ok (show s.i.toNat + 1 < 4096 by omega), ?_⟩
  rw [wordOfBytes_toNat]
  exact congrArg₂ (· * 256 + ·) hhundreds htens

/-- Settles O46: byte by byte, each address inside memory holds its digit, and the first one outside is the
fault's. -/
theorem storeBcdWritesThreeDigits : Obligations.StoreBcdWritesThreeDigits := by
  refine ⟨encodes_of_row (by simp [rowsR77]), fun x s hm => ?_⟩
  obtain ⟨t, h, hframe⟩ := execFX33_next x s
  refine ⟨fun hi => ⟨t, h, execFX33_read_hundreds hm h ?_, execFX33_read_tens hm h ?_,
    execFX33_read_ones hm h hi, fun a h0 h1 h2 => ?_, execFX33_changesOnly_memory h hi⟩, fun hi => ⟨t, h, execFX33_fault_of_le h hi,
    execFX33_read_hundreds hm h, execFX33_read_tens hm h, fun a ha => ?_, hframe⟩⟩
  · exact (indexAddr_le_indexAddr s (by decide)).trans_lt hi
  · exact (indexAddr_le_indexAddr s (by decide)).trans_lt hi
  · exact execFX33_read_other hm h (fun h => h0 h.2) (fun h => h1 h.2) (fun h => h2 h.2)
  · exact execFX33_read_other hm h (fun h => ha ⟨h.1, .inl h.2⟩) (fun h => ha ⟨h.1, .inr h.2⟩)
      (by omega)

/-- Settles O7: a fetch inside memory is the word of its two bytes; outside, the cycle ends at the fetch. -/
theorem fetchReadsBigEndianOrFaults : Obligations.FetchReadsBigEndianOrFaults := by
  refine fun s => ⟨fun hp => ⟨_, fetch_ok hp, wordOfBytes_toNat _ _⟩, fun hf hp =>
    ⟨_, step_of_fetch_outside hf (by omega), ?_, rfl,
      ((changesOnly_beginCycle s).seq (changesOnly_raise _ _)).mono (by decide)⟩⟩
  have haddr : max s.pc.toNat 4096 = if s.pc.toNat = 0xFFF then 0x1000 else s.pc.toNat := by
    split <;> omega
  rw [State.raise_fault, haddr]

/-- Settles O32: the sum is below 65536, so the 16-bit PC holds it whole. -/
theorem jumpWithOffsetIsNotMasked : Obligations.JumpWithOffsetIsNotMasked :=
  ⟨encodes_of_row (by simp [rowsR77]), fun nnn s =>
    ⟨_, rfl, zextAddr_add_zextByte_toNat nnn (s.V 0), changesOnly_setPC s _⟩⟩

end Sys2Proof.Machine
end

section
/-! SUPPORT. The words that no row of the decode table accepts, class by class, and the words of the named
unsupported patterns (spec/30_encoding.md R76 to R79). -/

namespace Sys2Proof

/-- A decoded instruction is encoded by the word it came from (R77, R83). -/
theorem encode_of_decode {w : Word} {i : Instr} (h : decode w = .ok i) : encode i = w := by
  obtain ⟨r, hr, hacc, rfl⟩ := row_of_decode h
  exact encode_of_row r hr w hacc

/-- 0NNN is not what the two words of 00E0 and 00EE decode to, so a decoded instruction is well formed
(R79). -/
theorem wf_of_decode {w : Word} {i : Instr} (h : decode w = .ok i) : i.wf = true := by
  cases i with
  | op0NNN nnn =>
    have hw : wordNNN 0x0 nnn = w := encode_of_decode h
    have hne (k : Addr) (hk : decode (wordNNN 0x0 k) ≠ .ok (.op0NNN k)) : (nnn != k) = true := by
      rw [bne_iff_ne]
      rintro rfl
      exact hk (by rw [hw, h])
    exact Bool.and_eq_true_iff.2 ⟨hne _ (by decide), hne _ (by decide)⟩
  | _ => rfl

/-! ### Rejected words -/

/-- A word is rejected when no row of the table matches it (R76, R78). -/
theorem decode_unsupported_iff (w : Word) : decode w = .error (.unsupported w) ↔
    ∀ r ∈ decodeTable, w &&& r.mask ≠ r.bits := by
  have hfind : decodeTable.find? (·.accepts w) = none ↔ ∀ r ∈ decodeTable, w &&& r.mask ≠ r.bits := by
    simp [Row.accepts]
  rw [← hfind, decode]
  cases decodeTable.find? (·.accepts w) <;> simp

/-- The mask and match value of the rows of one class nibble, in the table's order (R77). -/
def patternsOfClass (c : BitVec 4) : List (Word × Word) :=
  (decodeTable.map fun r => (r.mask, r.bits)).filter fun p => p.2.extractLsb' 12 4 == c

/-- Every row fixes the class nibble, so only the rows of its class can match a word (R77). -/
theorem decode_unsupported_iff_of_class {w : Word} {c : BitVec 4} (hc : w.extractLsb' 12 4 = c) :
    decode w = .error (.unsupported w) ↔ ∀ p ∈ patternsOfClass c, w &&& p.1 ≠ p.2 := by
  have hfix : ∀ r ∈ decodeTable, r.mask.extractLsb' 12 4 = BitVec.allOnes 4 := by decide
  rw [decode_unsupported_iff]
  simp only [patternsOfClass, List.mem_filter, List.mem_map]
  constructor
  · rintro h p ⟨⟨r, hr, rfl⟩, -⟩
    exact h r hr
  · intro h r hr hrw
    have hbits : r.bits.extractLsb' 12 4 = c := by
      rw [← hc, extract_of_and hrw 12 4 (hfix r hr)]
    exact h (r.mask, r.bits) ⟨⟨r, hr, rfl⟩, beq_iff_eq.2 hbits⟩ hrw

/-- The fixed digits of a pattern with class and low byte (R77). -/
theorem and_F0FF_eq_iff {w : Word} {c : BitVec 4} (hc : w.extractLsb' 12 4 = c) (b : Byte) :
    w &&& 0xF0FF = c ++ 0#4 ++ b ↔ w.extractLsb' 0 8 = b := by
  have hw := wordXNN_and_F0FF (w.extractLsb' 12 4) (fieldX w) (fieldNN w)
  rw [wordXNN_fields, hc, fieldNN] at hw
  rw [hw, BitVec.append_right_inj]

/-- The fixed digits of a pattern with class and low nibble (R77). -/
theorem and_F00F_eq_iff {w : Word} {c : BitVec 4} (hc : w.extractLsb' 12 4 = c) (n : BitVec 4) :
    w &&& 0xF00F = c ++ 0#8 ++ n ↔ w.extractLsb' 0 4 = n := by
  have hw := wordXYN_and_F00F (w.extractLsb' 12 4) (fieldX w) (fieldY w) (fieldN w)
  rw [wordXYN_fields, hc, nibble, fieldN, BitVec.ofFin_toFin] at hw
  rw [hw, BitVec.append_right_inj]

/-- In a class whose patterns fix the low byte, the words with another low byte are rejected. -/
theorem decode_unsupported_iff_lowByte {w : Word} {c : BitVec 4} {bs : List Byte}
    (htab : patternsOfClass c = bs.map fun b => (0xF0FF, c ++ 0#4 ++ b))
    (hc : w.extractLsb' 12 4 = c) :
    decode w = .error (.unsupported w) ↔ w.extractLsb' 0 8 ∉ bs := by
  rw [decode_unsupported_iff_of_class hc, htab, List.forall_mem_map]
  simp only [ne_eq, and_F0FF_eq_iff hc]
  exact List.forall_mem_ne

/-- In a class whose patterns fix the low nibble, the words with another low nibble are rejected. -/
theorem decode_unsupported_iff_lowNibble {w : Word} {c : BitVec 4} {ns : List (BitVec 4)}
    (htab : patternsOfClass c = ns.map fun n => (0xF00F, c ++ 0#8 ++ n))
    (hc : w.extractLsb' 12 4 = c) :
    decode w = .error (.unsupported w) ↔ w.extractLsb' 0 4 ∉ ns := by
  rw [decode_unsupported_iff_of_class hc, htab, List.forall_mem_map]
  simp only [ne_eq, and_F00F_eq_iff hc]
  exact List.forall_mem_ne

/-- The other classes have one pattern that fixes nothing else, so they reject no word. -/
theorem decode_ne_unsupported {w : Word}
    (hw : w.extractLsb' 12 4 ∉ [0x5#4, 0x9#4, 0x8#4, 0xE#4, 0xF#4]) :
    decode w ≠ .error (.unsupported w) := by
  have hrow : ∀ c : BitVec 4, c ∉ [0x5#4, 0x9#4, 0x8#4, 0xE#4, 0xF#4] →
      (0xF000, c ++ 0#12) ∈ patternsOfClass c := by
    decide
  have hmask : w &&& 0xF000 = w.extractLsb' 12 4 ++ 0#12 := by
    simpa only [wordNNN_fields] using wordNNN_and_F000 (w.extractLsb' 12 4) (fieldNNN w)
  exact fun h => (decode_unsupported_iff_of_class rfl).1 h _ (hrow _ hw) hmask

/-! ### Words of the named unsupported patterns -/

theorem encode_opFX55 (x : Reg) : encode (.opFX55 x) = BitVec.ofNat 16 (0xF055 + 0x100 * x.val) := by
  revert x
  decide

theorem encode_opFX65 (x : Reg) : encode (.opFX65 x) = BitVec.ofNat 16 (0xF065 + 0x100 * x.val) := by
  revert x
  decide

theorem encode_op0NNN (nnn : Addr) : encode (.op0NNN nnn) = BitVec.ofNat 16 nnn.toNat := by
  apply BitVec.eq_of_toNat_eq
  have hword : (wordNNN 0x0 nnn).toNat = nnn.toNat := by
    rw [wordNNN, BitVec.toNat_append]
    simp
  rw [encode, hword, BitVec.toNat_ofNat]
  omega

end Sys2Proof
end

section
/-! SUPPORT. The obligations of spec/30_encoding.md on the decoder and the encoder. -/

namespace Sys2Proof

/-- Settles O2: each instruction's word matches the row that builds it back. -/
theorem everyInstructionDecodesFromItsWord : Obligations.EveryInstructionDecodesFromItsWord :=
  fun _ => decode_encode

/-- Settles O3: the row that matches a word builds an instruction that the word encodes. -/
theorem decodedInstructionEncodesBack : Obligations.DecodedInstructionEncodesBack :=
  fun _ _ h => ⟨wf_of_decode h, encode_of_decode h⟩

/-- Settles O5: class by class, from the digits that the class's patterns fix. -/
theorem unsupportedWordsByNibbles : Obligations.UnsupportedWordsByNibbles := by
  intro w
  by_cases hw : w.extractLsb' 12 4 ∈ [0x5#4, 0x9#4, 0x8#4, 0xE#4, 0xF#4]
  · simp only [List.mem_cons, List.not_mem_nil, or_false] at hw
    obtain hc | hc | hc | hc | hc := hw
    · rw [decode_unsupported_iff_lowNibble (ns := [0x0]) (by decide) hc]
      simp [hc]
    · rw [decode_unsupported_iff_lowNibble (ns := [0x0]) (by decide) hc]
      simp [hc]
    · have hcompl : ∀ n : BitVec 4, n ∉ [0x0#4, 0x1, 0x2, 0x3, 0x4, 0x5, 0x6, 0x7, 0xE] ↔
          n ∈ [0x8#4, 0x9, 0xA, 0xB, 0xC, 0xD, 0xF] := by
        decide
      rw [decode_unsupported_iff_lowNibble (ns := [0x0#4, 0x1, 0x2, 0x3, 0x4, 0x5, 0x6, 0x7, 0xE])
        (by decide) hc, hcompl]
      simp [hc]
    · rw [decode_unsupported_iff_lowByte (bs := [0x9E, 0xA1]) (by decide) hc]
      simp [hc]
    · rw [decode_unsupported_iff_lowByte
        (bs := [0x07, 0x0A, 0x15, 0x18, 0x1E, 0x29, 0x33, 0x55, 0x65]) (by decide) hc]
      simp [hc]
  · refine iff_of_false (decode_ne_unsupported hw) ?_
    simp only [List.mem_cons, List.not_mem_nil, or_false, not_or] at hw
    simp [hw]

/-- Settles O1: each of the words, read by the table. -/
theorem decoderReadsSpecWords : Obligations.DecoderReadsSpecWords := by
  unfold Obligations.DecoderReadsSpecWords
  decide

end Sys2Proof
end

section
/-! SUPPORT. What the tick stage leaves, the state a cycle's instruction runs on, the dispatch of a word by what
it decodes to, and the registers after a shift (spec/30_encoding.md R72 to R78, spec/41_alu.md R139, R141,
spec/60_exceptions.md R240 to R243, R254). -/

namespace Sys2Proof.Machine

/-! ### The tick stage -/

/-- A timer counts down by one and stays at 0 (R240). -/
theorem countDown_toNat (t : Byte) : (countDown t).toNat = t.toNat - 1 := by
  rw [countDown]
  split <;> bv_omega

theorem countDown_eq_ite (t : Byte) : countDown t = if t ≠ 0 then t - 1 else t :=
  if_congr (BitVec.pos_iff_ne_zero t) rfl rfl

theorem soundFor_eq_ite (st : Byte) : soundFor st = if st = 0 then .stopped else .playing :=
  (if_congr (BitVec.pos_iff_ne_zero st) rfl rfl).trans (ite_not ..)

theorem soundFor_eq_playing_iff (st : Byte) : soundFor st = .playing ↔ 0 < st.toNat := by
  simp [soundFor, BitVec.lt_def]

theorem soundFor_eq_stopped_iff (st : Byte) : soundFor st = .stopped ↔ st.toNat = 0 := by
  simp [soundFor, BitVec.lt_def]

theorem audioEdge_eq_start_iff (old new : Sound) :
    audioEdge old new = some .start ↔ old = .stopped ∧ new = .playing := by
  cases old <;> cases new <;> simp [audioEdge]

theorem audioEdge_eq_stop_iff (old new : Sound) :
    audioEdge old new = some .stop ↔ old = .playing ∧ new = .stopped := by
  cases old <;> cases new <;> simp [audioEdge]

/-- The signal of a tick, by ST before its decrement and by SND (R240, R243, D9). -/
theorem audioEdge_soundFor (old : Sound) (st : Byte) : audioEdge old (soundFor st) =
    if st ≠ 0 ∧ old = .stopped then some .start
    else if st = 0 ∧ old = .playing then some .stop
    else none := by
  rw [soundFor_eq_ite]
  by_cases h : st = 0#8 <;> cases old <;> simp [h, audioEdge]

/-- What the tick stage may write (R75, R240). -/
theorem changesOnly_tickStage (s : State) :
    ChangesOnly [.delay, .soundTimer, .sound, .signal, .inputs] s (tickStage s) := by
  intro p hp
  cases p with
  | delay | soundTimer | sound | signal | inputs => exact absurd (by decide) hp
  | _ => simp [Part.same, State.V, State.S, State.cell]

/-- With no tick due the stage only uses up the sample (R75). -/
theorem changesOnly_tickStage_of_no_tick {s : State} (h : s.env.tick = false) :
    ChangesOnly [.inputs] s (tickStage s) := by
  intro p hp
  cases p with
  | inputs => exact absurd (by decide) hp
  | delay | soundTimer | sound | signal => simp [Part.same, h]
  | _ => simp [Part.same, State.V, State.S, State.cell]

/-! ### Dispatch by what the word decodes to -/

theorem dispatchWord_of_decode {w : Word} {i : Instr} (h : decode w = .ok i) (s : State) :
    dispatchWord w s = exec i s := by
  rw [dispatchWord, h]

theorem dispatchWord_of_undecoded {w : Word} (h : ∀ i, decode w ≠ .ok i) (s : State) :
    dispatchWord w s = .next (s.raise (.unsupportedInstruction w)) := by
  rw [dispatchWord]
  cases hd : decode w with
  | ok i => exact absurd hd (h i)
  | error e => rfl

/-- `Execute(w)` on a running core is the dispatch alone (R254). -/
theorem execute_of_running {s : State} (h : s.fault = none) (w : Word) :
    execute w s = dispatchWord w s := by
  rw [execute, h]

/-- The step of a running core whose fetch is inside memory dispatches the fetched word (R72). -/
theorem step_of_fetch_inside {s : State} (hf : s.fault = none) (hp : s.pc.toNat + 1 < 4096) :
    step s = dispatchWord (wordOfBytes (s.mem.read s.pc.toNat) (s.mem.read (s.pc.toNat + 1)))
      (tickStage (advance (beginCycle s))) := by
  rw [step, cycle, hf]
  show runCycle (beginCycle s) = _
  rw [runCycle, fetch_ok (s := beginCycle s) hp]
  rfl

/-- The state a cycle's instruction runs on, field by field (R74, R75, R240, D9). -/
theorem tickStage_advance_beginCycle (s : State) : tickStage (advance (beginCycle s)) =
    { s with
      pc := s.pc + 2
      env := s.env.afterTick
      dt := if s.env.tick = true ∧ s.dt ≠ 0 then s.dt - 1 else s.dt
      st := if s.env.tick = true ∧ s.st ≠ 0 then s.st - 1 else s.st
      snd := if s.env.tick = true then (if s.st = 0 then .stopped else .playing) else s.snd
      signal :=
        if s.env.tick = true ∧ s.st ≠ 0 ∧ s.snd = .stopped then some .start
        else if s.env.tick = true ∧ s.st = 0 ∧ s.snd = .playing then some .stop
        else none } := by
  cases ht : s.env.tick with
  | false => simp [tickStage, ht, advance, beginCycle]
  | true =>
    simp only [tickStage, timerTick, advance, beginCycle, ht, cond_true, true_and, if_true,
      audioEdge_soundFor]
    rw [countDown_eq_ite, countDown_eq_ite, soundFor_eq_ite]

/-! ### Shifts -/

theorem shiftedOutRight_toNat (a : Byte) : (shiftedOutRight a).toNat = a.toNat % 2 := by
  rw [shiftedOutRight, BitVec.toNat_and]
  exact Nat.and_one_is_mod _

theorem shiftedOutLeft_toNat (a : Byte) : (shiftedOutLeft a).toNat = a.toNat / 128 := by
  rw [shiftedOutLeft, BitVec.toNat_and, BitVec.toNat_ushiftRight, Nat.shiftRight_eq_div_pow]
  refine (Nat.and_one_is_mod _).trans ?_
  omega

/-- A shift right by one halves (R139). -/
theorem toNat_ushiftRight_one (a : Byte) : (a >>> 1).toNat = a.toNat / 2 := by
  rw [BitVec.toNat_ushiftRight, Nat.shiftRight_eq_div_pow, pow_one]

/-- A shift left by one doubles modulo 256 (R141). -/
theorem toNat_shiftLeft_one (a : Byte) : (a <<< 1).toNat = a.toNat * 2 % 256 := by
  rw [BitVec.toNat_shiftLeft, Nat.shiftLeft_eq, pow_one]

/-- A flag into VF, then a result into V[X]: no other register is written (R22). -/
theorem regsExcept_setV_VF (s : State) (x : Reg) (f r : Byte) :
    RegsExcept [x, 0xF] s ((s.setV 0xF f).setV x r) := by
  intro k hk
  obtain ⟨hx, hF⟩ : k ≠ x ∧ k ≠ 0xF := by simpa using hk
  rw [State.V_setV_ne _ _ hx, State.V_setV_ne _ _ hF]

end Sys2Proof.Machine
end

section
/-! SUPPORT. The obligations on the cycle, its tick, `Execute`, the shifts and the named unsupported words. -/

namespace Sys2Proof.Machine

/-- Settles O11: the four fields that a tick moves, each by the equation of what it is set to. -/
theorem tickCountsDownAndDrivesSound : Obligations.TickCountsDownAndDrivesSound := by
  refine fun s => ⟨changesOnly_tickStage_of_no_tick, fun ht =>
    ⟨?_, ?_, ?_, ?_, ?_, changesOnly_tickStage s⟩⟩
  · rw [tickStage_dt, ht, cond_true, countDown_toNat]
  · rw [tickStage_st, ht, cond_true, countDown_toNat]
  · rw [tickStage_snd, ht, cond_true, soundFor_eq_playing_iff]
  · rw [tickStage_signal, ht, cond_true, audioEdge_eq_start_iff, soundFor_eq_playing_iff]
  · rw [tickStage_signal, ht, cond_true, audioEdge_eq_stop_iff, soundFor_eq_stopped_iff]

/-- Settles O12: a signal needs a tick, and without a signal SND has not moved. -/
theorem soundIsStillWithoutATick : Obligations.SoundIsStillWithoutATick := by
  intro s t ht h
  obtain ⟨-, -, hstill, htick⟩ := audioSignalsAreEdges s t h
  have hnone : t.signal = none := by
    by_contra hne
    exact Bool.false_ne_true (ht.symm.trans (htick hne))
  exact ⟨hstill.1 hnone, hnone⟩

/-- Settles O6: the cycle dispatches the fetched word on the ticked, advanced state. -/
theorem stepRunsTheDecodedInstruction : Obligations.StepRunsTheDecodedInstruction := by
  rintro s u w hf hp rfl hu
  rw [← tickStage_advance_beginCycle] at hu
  rw [step_of_fetch_inside hf hp, ← hu]
  exact ⟨fun i hi => dispatchWord_of_decode hi u, fun hw => dispatchWord_of_undecoded hw u⟩

/-- Settles O58: `Execute(w)` is the dispatch of w on the same state. -/
theorem executeDispatchesOnTheCurrentState : Obligations.ExecuteDispatchesOnTheCurrentState := by
  intro w s hf
  rw [execute_of_running hf]
  exact ⟨fun i hi => dispatchWord_of_decode hi s,
    fun hw => ⟨_, dispatchWord_of_undecoded hw s, rfl, changesOnly_raise s _⟩⟩

/-- Settles O40: the flag first, so with X = F the bit itself is shifted out. -/
theorem shiftRightMovesBitZeroToVF : Obligations.ShiftRightMovesBitZeroToVF := by
  refine ⟨encodes_of_row (by simp [rowsR77]), fun x y s =>
    ⟨_, rfl, fun hx => ⟨?_, ?_⟩, ?_, regsExcept_setV_VF s x _ _, changesOnly_setV_setV s _ _ _ _⟩⟩
  · rw [State.V_setV_self, State.setVF_eq, State.V_setV_ne s _ hx, toNat_ushiftRight_one]
  · rw [State.V_setV_ne _ _ hx.symm, State.setVF_eq, State.V_setV_self, shiftedOutRight_toNat]
  · rintro rfl
    rw [State.V_setV_self, State.setVF_eq, State.V_setV_self, toNat_ushiftRight_one,
      shiftedOutRight_toNat]
    omega

/-- Settles O41: the flag first, so with X = F the bit itself is doubled. -/
theorem shiftLeftMovesBitSevenToVF : Obligations.ShiftLeftMovesBitSevenToVF := by
  refine ⟨encodes_of_row (by simp [rowsR77]), fun x y s =>
    ⟨_, rfl, fun hx => ⟨?_, ?_⟩, ?_, regsExcept_setV_VF s x _ _, changesOnly_setV_setV s _ _ _ _⟩⟩
  · rw [State.V_setV_self, State.setVF_eq, State.V_setV_ne s _ hx, toNat_shiftLeft_one]
  · rw [State.V_setV_ne _ _ hx.symm, State.setVF_eq, State.V_setV_self, shiftedOutLeft_toNat]
  · rintro rfl
    rw [State.V_setV_self, State.setVF_eq, State.V_setV_self, toNat_shiftLeft_one,
      shiftedOutLeft_toNat]
    omega

/-- Settles O47: each raises with the word that encodes it. -/
theorem namedUnsupportedWordsFault : Obligations.NamedUnsupportedWordsFault := by
  refine ⟨encodes_of_row (by simp [rowsR77]), encodes_of_row (by simp [rowsR77]),
    fun _ => decode_class0, fun x nnn s => ?_⟩
  rw [← encode_opFX55, ← encode_opFX65, ← encode_op0NNN]
  exact ⟨⟨_, rfl, rfl, changesOnly_raise s _⟩, ⟨_, rfl, rfl, changesOnly_raise s _⟩,
    ⟨_, rfl, rfl, changesOnly_raise s _⟩⟩

end Sys2Proof.Machine
end

section
/-! SUPPORT. What a call and a return that do not raise do, and the PC that a skip leaves
(spec/40_control_flow.md). -/

namespace Sys2Proof.Machine

/-- A part that reads the same need not be listed among those that may change. -/
theorem ChangesOnly.drop {ps qs : List Part} {p : Part} {s t : State} (h : ChangesOnly ps s t)
    (hp : p.same s t) (hq : ∀ q ∈ ps, q = p ∨ q ∈ qs) : ChangesOnly qs s t := by
  intro q hnq
  by_cases hqp : q = p
  · exact hqp ▸ hp
  · exact h q fun hm => (hq q hm).elim hqp hnq

/-- 00EE with a nonempty stack: PC takes the entry that the lowered SP names (R100; D5). -/
theorem exec00EE_of_succ {s : State} {k : Fin 16} (hk : s.sp.val = k.val + 1) :
    ∃ t, exec .op00EE s = .next t ∧ t.sp.val = k.val ∧ t.pc = s.S k ∧
      ChangesOnly [.pc, .sp] s t := by
  obtain ⟨h0, -⟩ | ⟨j, t, hj, ht, hsp, hframe⟩ := exec00EE_cases s
  · omega
  · obtain rfl : j = k := by omega
    have hfault : t.fault = s.fault := by rw [hframe]
    exact ⟨t, ht, hsp, congrArg State.pc hframe,
      (exec_changesOnly (i := .op00EE) ht).drop (p := .fault) hfault (by decide)⟩

/-- 2NNN with room on the stack: the entry at SP takes the advanced PC (R102). -/
theorem exec2NNN_of_lt {s : State} (h : s.sp.val < 16) (nnn : Addr) :
    ∃ t, exec (.op2NNN nnn) s = .next t ∧ t.sp.val = s.sp.val + 1 ∧ t.pc.toNat = nnn.toNat ∧
      (∀ k : Fin 16, t.S k = if k.val = s.sp.val then s.pc else s.S k) ∧
      ChangesOnly [.pc, .sp, .stack] s t := by
  obtain ⟨h16, -⟩ | ⟨t, ht, hsp, hS, hframe⟩ := exec2NNN_cases nnn s
  · omega
  · have hpc : t.pc = zextAddr nnn := congrArg State.pc hframe
    have hfault : t.fault = s.fault := by rw [hframe]
    exact ⟨t, ht, hsp, by rw [hpc, zextAddr_toNat], hS,
      (exec_changesOnly (i := .op2NNN nnn) ht).drop (p := .fault) hfault (by simp [writtenParts])⟩

/-- A skip on equal bytes (R103, R105). -/
theorem State.skipIf_beq_pc (s : State) (a b : Byte) :
    (s.skipIf (a == b)).pc = if a.toNat = b.toNat then s.pc + 2 else s.pc := by
  simp only [State.skipIf_pc, BitVec.toNat_inj, cond_eq_ite, beq_iff_eq]

/-- A skip on different bytes (R104, R106). -/
theorem State.skipIf_bne_pc (s : State) (a b : Byte) :
    (s.skipIf (a != b)).pc = if a.toNat = b.toNat then s.pc else s.pc + 2 := by
  simp only [State.skipIf_pc, BitVec.toNat_inj, cond_eq_ite, bne_iff_ne, ite_not]

end Sys2Proof.Machine
end

section
/-! SUPPORT. The obligations of spec/40_control_flow.md. -/

namespace Sys2Proof.Machine

/-- Settles O33: the return's lowered SP names the entry that the call has written. -/
theorem callThenReturnRestoresPC : Obligations.CallThenReturnRestoresPC := by
  intro nnn s t u hroom hcall husp huS
  obtain ⟨t', ht', hsp, -, hS, -⟩ := exec2NNN_of_lt hroom nnn
  obtain rfl := next_unique ht' hcall
  have htop : u.sp.val = s.sp.val + 1 := by rw [husp, hsp]
  obtain ⟨r, hr, hrsp, hrpc, -⟩ := exec00EE_of_succ (k := ⟨s.sp.val, hroom⟩) htop
  refine ⟨r, hr, ?_, Fin.ext hrsp⟩
  rw [hrpc, huS, hS, if_pos rfl]

/-- Settles O27: SP = k + 1 pops entry k, and SP = 0 raises. -/
theorem returnPopsTheLastPushedAddress : Obligations.ReturnPopsTheLastPushedAddress := by
  refine ⟨encodes_of_row (by simp [rowsR77]), fun s => ⟨fun k => exec00EE_of_succ, fun h0 => ?_⟩⟩
  obtain ⟨-, ht⟩ | ⟨k, -, hk, -⟩ := exec00EE_cases s
  · exact ⟨_, ht, rfl, changesOnly_raise s _⟩
  · omega

/-- Settles O28: PC takes the address, zero-extended. -/
theorem jumpSetsPC : Obligations.JumpSetsPC :=
  ⟨encodes_of_row (by simp [rowsR77]), fun nnn s =>
    ⟨_, rfl, zextAddr_toNat nnn, changesOnly_setPC s _⟩⟩

/-- Settles O29: SP below 16 pushes and jumps, and SP = 16 raises. -/
theorem callPushesTheReturnAddress : Obligations.CallPushesTheReturnAddress := by
  refine ⟨encodes_of_row (by simp [rowsR77]), fun nnn s =>
    ⟨fun h => exec2NNN_of_lt h nnn, fun h16 => ?_⟩⟩
  obtain ⟨-, ht⟩ | ⟨t, -, hsp, -⟩ := exec2NNN_cases nnn s
  · exact ⟨_, ht, rfl, changesOnly_raise s _⟩
  · omega

/-- Settles O30: bytes are equal when their values are. -/
theorem skipOnImmediate : Obligations.SkipOnImmediate :=
  ⟨encodes_of_row (by simp [rowsR77]), encodes_of_row (by simp [rowsR77]), fun x nn s =>
    ⟨⟨_, rfl, s.skipIf_beq_pc (s.V x) nn, changesOnly_skipIf s _⟩,
      ⟨_, rfl, s.skipIf_bne_pc (s.V x) nn, changesOnly_skipIf s _⟩⟩⟩

/-- Settles O31: the same skips, on the bytes of two registers. -/
theorem skipOnRegister : Obligations.SkipOnRegister :=
  ⟨encodes_of_row (by simp [rowsR77]), encodes_of_row (by simp [rowsR77]), fun x y s =>
    ⟨⟨_, rfl, s.skipIf_beq_pc (s.V x) (s.V y), changesOnly_skipIf s _⟩,
      ⟨_, rfl, s.skipIf_bne_pc (s.V x) (s.V y), changesOnly_skipIf s _⟩⟩⟩

end Sys2Proof.Machine
end

section
/-! SUPPORT. The state after a result and then its flag, and what the sum, the difference and the flags are as
numbers (spec/41_alu.md R130, R137, R138, R140). -/

namespace Sys2Proof.Machine

/-! ### A result, then its flag -/

/-- The flag does not reach a result register other than VF (R130). -/
theorem V_resultThenFlag_of_ne {x : Reg} (hx : x ≠ 0xF) (r : Byte) (c : Bool) (s : State) :
    (resultThenFlag x r c s).V x = r := by
  rw [resultThenFlag, State.setVF_eq, State.V_setV_ne _ _ hx, State.V_setV_self]

/-- VF ends as the flag whatever X is, X = F included (R137, R138, R140). -/
theorem V_resultThenFlag_VF (x : Reg) (r : Byte) (c : Bool) (s : State) :
    (resultThenFlag x r c s).V 0xF = flagByte c := by
  rw [resultThenFlag, State.setVF_eq, State.V_setV_self]

theorem regsExcept_resultThenFlag (s : State) (x : Reg) (r : Byte) (c : Bool) :
    RegsExcept [x, 0xF] s (resultThenFlag x r c s) := by
  intro k hk
  obtain ⟨hx, hF⟩ : k ≠ x ∧ k ≠ 0xF := by simpa using hk
  rw [resultThenFlag, State.setVF_eq, State.V_setV_ne _ _ hF, State.V_setV_ne _ _ hx]

theorem changesOnly_resultThenFlag (s : State) (x : Reg) (r : Byte) (c : Bool) :
    ChangesOnly [.regs] s (resultThenFlag x r c s) :=
  changesOnly_setV_setV s x 0xF r (flagByte c)

/-! ### Flags and differences as numbers -/

theorem flagByte_toNat (c : Bool) : (flagByte c).toNat = if c then 1 else 0 := by
  cases c <;> rfl

theorem flagByte_carryOut_toNat (a b : Byte) :
    (flagByte (carryOut a b)).toNat = if a.toNat + b.toNat > 255 then 1 else 0 := by
  simp only [flagByte_toNat, carryOut, decide_eq_true_eq]

theorem flagByte_notBorrow_toNat (a b : Byte) :
    (flagByte (notBorrow a b)).toNat = if a.toNat < b.toNat then 0 else 1 := by
  simp only [flagByte_toNat, notBorrow, Bool.not_eq_true', decide_eq_false_iff_not, ite_not]

/-- The difference of two bytes is the exact one reduced modulo 256 (R130). -/
theorem toNat_sub_eq_emod (a b : Byte) :
    ((a - b).toNat : Int) = ((a.toNat : Int) - b.toNat) % 256 := by
  rw [BitVec.toNat_sub]
  omega

/-- What 8XY5 and 8XY7 do, for any minuend and subtrahend (R138, R140). -/
theorem resultThenFlag_sub (x : Reg) (a b : Byte) (s : State) :
    let t := resultThenFlag x (a - b) (notBorrow a b) s
    (x ≠ 0xF → ((t.V x).toNat : Int) = ((a.toNat : Int) - b.toNat) % 256) ∧
      (t.V 0xF).toNat = (if a.toNat < b.toNat then 0 else 1) ∧
      RegsExcept [x, 0xF] s t ∧ ChangesOnly [.regs] s t := by
  refine ⟨fun hx => ?_, ?_, regsExcept_resultThenFlag s x _ _, changesOnly_resultThenFlag s x _ _⟩
  · rw [V_resultThenFlag_of_ne hx, toNat_sub_eq_emod]
  · rw [V_resultThenFlag_VF, flagByte_notBorrow_toNat]

end Sys2Proof.Machine
end

section
/-! SUPPORT. The obligations of spec/41_alu.md on loads, bitwise operations, sums and differences. -/

namespace Sys2Proof.Machine

/-- Settles O38: the carry is written over VF after the sum is written to V[X]. -/
theorem addSetsCarry : Obligations.AddSetsCarry := by
  refine ⟨encodes_of_row (by simp [rowsR77]), fun x y s => ⟨_, rfl, fun hx => ?_, ?_,
    regsExcept_resultThenFlag s x _ _, changesOnly_resultThenFlag s x _ _⟩⟩
  · rw [V_resultThenFlag_of_ne hx, BitVec.toNat_add]
  · rw [V_resultThenFlag_VF, flagByte_carryOut_toNat]

/-- Settles O39: the two instructions are one subtraction with minuend and subtrahend exchanged. -/
theorem subtractSetsNotBorrow : Obligations.SubtractSetsNotBorrow :=
  ⟨encodes_of_row (by simp [rowsR77]), encodes_of_row (by simp [rowsR77]), fun x y s =>
    ⟨⟨_, rfl, resultThenFlag_sub x (s.V x) (s.V y) s⟩,
      ⟨_, rfl, resultThenFlag_sub x (s.V y) (s.V x) s⟩⟩⟩

/-- Settles O34: one write of a register. -/
theorem loadImmediate : Obligations.LoadImmediate :=
  ⟨encodes_of_row (by simp [rowsR77]), fun x nn s =>
    ⟨_, rfl, s.V_setV_self x nn, regsExcept_setV s x nn, changesOnly_setV s x nn⟩⟩

/-- Settles O35: one write of a register, the sum of bytes being the sum modulo 256. -/
theorem addImmediateWritesNoCarry : Obligations.AddImmediateWritesNoCarry := by
  refine ⟨encodes_of_row (by simp [rowsR77]), fun x nn s =>
    ⟨_, rfl, ?_, regsExcept_setV s x _, changesOnly_setV s x _⟩⟩
  rw [State.V_setV_self, BitVec.toNat_add]

/-- Settles O36: one write of a register. -/
theorem copyRegister : Obligations.CopyRegister :=
  ⟨encodes_of_row (by simp [rowsR77]), fun x y s =>
    ⟨_, rfl, s.V_setV_self x (s.V y), regsExcept_setV s x _, changesOnly_setV s x _⟩⟩

/-- Settles O37: one write of a register each, read bit by bit. -/
theorem bitwiseOperations : Obligations.BitwiseOperations := by
  refine ⟨encodes_of_row (by simp [rowsR77]), encodes_of_row (by simp [rowsR77]),
    encodes_of_row (by simp [rowsR77]), fun x y s =>
    ⟨⟨_, rfl, fun j => ?_, regsExcept_setV s x _, changesOnly_setV s x _⟩,
      ⟨_, rfl, fun j => ?_, regsExcept_setV s x _, changesOnly_setV s x _⟩,
      ⟨_, rfl, fun j => ?_, regsExcept_setV s x _, changesOnly_setV s x _⟩⟩⟩
  · rw [State.V_setV_self, BitVec.getLsbD_or]
  · rw [State.V_setV_self, BitVec.getLsbD_and]
  · rw [State.V_setV_self, BitVec.getLsbD_xor]

end Sys2Proof.Machine
end

section
/-! SUPPORT. The addresses that FX1E and FX29 leave in I, as numbers, and the obligations of
spec/42_index_memory.md on I (R170 to R172). -/

namespace Sys2Proof.Machine

/-- The index sum, reduced modulo 65536 (R171; D7). -/
theorem add_zextByte_toNat (a : Word) (b : Byte) :
    (a + zextByte b).toNat = (a.toNat + b.toNat) % 65536 := by
  rw [BitVec.toNat_add, zextByte, BitVec.toNat_setWidth_of_le (by decide)]

/-- The product is at most 1275, so a 16-bit address holds it whole (R172). -/
theorem glyphAddr_toNat (b : Byte) : (glyphAddr b).toNat = b.toNat * 5 := by
  rw [glyphAddr, BitVec.toNat_ofNat]
  omega

/-- Settles O43: one write of I, with the address zero-extended. -/
theorem loadIndex : Obligations.LoadIndex :=
  ⟨encodes_of_row (by simp [rowsR77]), fun nnn s =>
    ⟨_, rfl, zextAddr_toNat nnn, changesOnly_setI s _⟩⟩

/-- Settles O44: one write of I, and no write of a register. -/
theorem addToIndexWritesNoFlag : Obligations.AddToIndexWritesNoFlag :=
  ⟨encodes_of_row (by simp [rowsR77]), fun x s =>
    ⟨_, rfl, add_zextByte_toNat s.i (s.V x), changesOnly_setI s _⟩⟩

/-- Settles O45: one write of I, with the product of the whole byte. -/
theorem pointIndexAtGlyph : Obligations.PointIndexAtGlyph :=
  ⟨encodes_of_row (by simp [rowsR77]), fun x s =>
    ⟨_, rfl, glyphAddr_toNat (s.V x), changesOnly_setI s _⟩⟩

end Sys2Proof.Machine
end

section
/-! SUPPORT. What the rows of DXYN do when all of them are inside memory and where the first one is not, and
the sprite that rows with fixed coordinates make (spec/43_graphics.md R192). -/

namespace Sys2Proof.Machine

/-! ### Rows that do not raise -/

section
variable {x y : Reg} {n i : Nat} {s u : State} (h : drawRows x y n i s = .ok () u)
include h

theorem drawRows_ok_state : (drawRows x y n i s).state = u := by
  rw [h, Flow.state_ok]

theorem drawRows_ok_i : u.i = s.i := by
  rw [← drawRows_ok_state h, drawRows_frame]

theorem drawRows_ok_mem : u.mem = s.mem := by
  rw [← drawRows_ok_state h, drawRows_frame]

theorem drawRows_ok_V {r : Reg} (hr : r ≠ 0xF) : u.V r = s.V r := by
  rw [← drawRows_ok_state h, V_drawRows x y n i s hr]

end

/-- Rows that do not raise are the rows before the last, then the last, its byte read from the memory and
the I that no row changes (R192). -/
theorem drawRows_succ_ok {x y : Reg} {n : Nat} {s t : State}
    (h : drawRows x y (n + 1) 0 s = .ok () t) :
    ∃ u, drawRows x y n 0 s = .ok () u ∧ t = drawRow x y n (s.mem.read (s.i.toNat + n)) u := by
  rw [drawRows_succ, Nat.zero_add] at h
  cases hu : drawRows x y n 0 s with
  | raised u => simp [hu] at h
  | ok _ u =>
    rw [hu, Flow.bind_ok, indexAddr, drawRows_ok_i hu] at h
    by_cases ha : s.i.toNat + n < Config.memorySize
    · rw [memRead_ok ha, Flow.bind_ok, drawRows_ok_mem hu] at h
      injection h with _ ht
      exact ⟨u, rfl, ht.symm⟩
    · rw [memRead_raised (Nat.le_of_not_lt ha), Flow.bind_raised] at h
      cases h

/-- After the rows before it, a row outside memory raises, however many rows follow (R192, R232). -/
theorem drawRows_raised {x y : Reg} {n m : Nat} {s u : State} (h : drawRows x y n 0 s = .ok () u)
    (ha : 4096 ≤ s.i.toNat + n) (hnm : n < m) :
    drawRows x y m 0 s = .raised (u.raise (.memoryOutOfRange (s.i.toNat + n))) := by
  induction m, hnm using Nat.le_induction with
  | base =>
    rw [drawRows_succ, h, Flow.bind_ok, Nat.zero_add, indexAddr, drawRows_ok_i h, memRead_raised ha,
      Flow.bind_raised]
  | succ m _ ih => rw [drawRows_succ, ih, Flow.bind_raised]

/-- DXYN with all its rows inside memory: VF is cleared, the rows are drawn, and only VF and the screen
change (R192). -/
theorem execDXYN_inside (x y : Reg) {n : Fin 16} {s : State}
    (h : n.val = 0 ∨ s.i.toNat + n.val ≤ 4096) :
    ∃ t, drawRows x y n.val 0 (s.setVF 0) = .ok () t ∧ exec (.opDXYN x y n) s = .next t ∧
      RegsExcept [0xF] s t ∧ ChangesOnly [.regs, .screen] s t := by
  obtain ⟨t, ht, hframe⟩ := drawRows_ok x y n.val 0 (s.setVF 0) h
  have hexec : exec (.opDXYN x y n) s = .next t := congrArg Host.Outcome.next (drawRows_ok_state ht)
  have hfault : t.fault = s.fault := by rw [hframe]; rfl
  refine ⟨t, ht, hexec, fun r hr => ?_,
    (exec_changesOnly hexec).drop (p := .fault) hfault (by simp [writtenParts])⟩
  have hr : r ≠ 0xF := by simpa using hr
  rw [drawRows_ok_V ht hr, State.setVF_eq, State.V_setV_ne s _ hr]

/-! ### VF after a row -/

/-- VF after a row is 1 on a collision and as before otherwise (R192). -/
theorem VF_drawRow (x y : Reg) (i : Nat) (sprite : Byte) (s : State) :
    (drawRow x y i sprite s).V 0xF =
      if ∃ cx cy, s.cell cx cy = true ∧ rowPixel (s.V x).toNat (s.V y).toNat i sprite cx cy = true
      then 1 else s.V 0xF := by
  rw [V_drawRow]
  exact if_congr ((and_iff_right rfl).trans (collides_iff ..)) rfl rfl

/-! ### Sprites -/

theorem spritePixel_succ (s : State) (x0 y0 n : Nat) (cx : Fin 64) (cy : Fin 32) :
    spritePixel s x0 y0 (n + 1) cx cy =
      (spritePixel s x0 y0 n cx cy || rowPixel x0 y0 n (s.mem.read (s.i.toNat + n)) cx cy) := by
  simp [spritePixel, List.range_succ]

/-- A sprite's pixels depend on memory and I alone. -/
theorem spritePixel_congr {s t : State} (hi : t.i = s.i) (hm : ∀ a, t.mem.read a = s.mem.read a) :
    spritePixel t = spritePixel s := by
  funext x0 y0 n cx cy
  simp only [spritePixel, hi, hm]

/-- A sprite of at most 32 rows wraps onto none of its own rows, so a pixel of the next row is under none of
the rows before it (R191, R192). -/
theorem spritePixel_eq_false_of_rowPixel (s : State) {x0 y0 n : Nat} (hn : n < 32) {sprite : Byte}
    {cx : Fin 64} {cy : Fin 32} (h : rowPixel x0 y0 n sprite cx cy = true) :
    spritePixel s x0 y0 n cx cy = false := by
  have hrow : cy.val = (y0 + n) % 32 := of_decide_eq_true (Bool.and_eq_true_iff.1 h).1
  rw [spritePixel, List.any_eq_false]
  intro i hi
  have hlt : i < n := List.mem_range.1 hi
  have hne : cy.val ≠ (y0 + i) % 32 := by omega
  simp [rowPixel, hne]

section
variable {x y : Reg} (hx : x ≠ 0xF) (hy : y ≠ 0xF) {n : Nat}
include hx hy

/-- Rows whose coordinates VF does not hold invert the cells under the sprite's set bits (R192). -/
theorem cell_drawRows (hn : n ≤ 32) {s t : State} (h : drawRows x y n 0 s = .ok () t) (cx : Fin 64)
    (cy : Fin 32) :
    t.cell cx cy = (s.cell cx cy ^^ spritePixel s (s.V x).toNat (s.V y).toNat n cx cy) := by
  induction n generalizing t with
  | zero =>
    cases h
    exact (Bool.xor_false _).symm
  | succ n ih =>
    obtain ⟨u, hu, rfl⟩ := drawRows_succ_ok h
    rw [cell_drawRow, drawRows_ok_V hu hx, drawRows_ok_V hu hy, ih (by omega) hu, spritePixel_succ]
    cases hp : rowPixel (s.V x).toNat (s.V y).toNat n (s.mem.read (s.i.toNat + n)) cx cy with
    | false => rw [Bool.xor_false, Bool.or_false]
    | true => rw [spritePixel_eq_false_of_rowPixel s (by omega) hp, Bool.xor_false, Bool.false_or]

/-- Rows whose coordinates VF does not hold set VF when a set bit of the sprite is over a set cell (R192). -/
theorem VF_drawRows (hn : n ≤ 32) {s t : State} (h : drawRows x y n 0 s = .ok () t) :
    t.V 0xF =
      if ∃ cx cy, s.cell cx cy = true ∧ spritePixel s (s.V x).toNat (s.V y).toNat n cx cy = true
      then 1 else s.V 0xF := by
  induction n generalizing t with
  | zero =>
    cases h
    simp [spritePixel]
  | succ n ih =>
    obtain ⟨u, hu, rfl⟩ := drawRows_succ_ok h
    have hnew : ∀ cx cy,
        u.cell cx cy = true ∧
          rowPixel (s.V x).toNat (s.V y).toNat n (s.mem.read (s.i.toNat + n)) cx cy = true ↔
        s.cell cx cy = true ∧
          rowPixel (s.V x).toNat (s.V y).toNat n (s.mem.read (s.i.toNat + n)) cx cy = true :=
      fun cx cy => and_congr_left fun hp => by
        rw [cell_drawRows hx hy (by omega) hu, spritePixel_eq_false_of_rowPixel s (by omega) hp,
          Bool.xor_false]
    rw [VF_drawRow, drawRows_ok_V hu hx, drawRows_ok_V hu hy, ih (by omega) hu]
    simp only [hnew, spritePixel_succ, Bool.or_eq_true, and_or_left, exists_or]
    rw [← ite_or]
    exact if_congr or_comm rfl rfl

end

end Sys2Proof.Machine
end

section
/-! SUPPORT. The obligations of spec/43_graphics.md. -/

namespace Sys2Proof.Machine

/-- Settles O49: the rows before row n, then row n drawn or raising. -/
theorem drawSpriteRowByRow : Obligations.DrawSpriteRowByRow := by
  refine ⟨encodes_of_row (by simp [rowsR77]), fun x y s => ⟨?_, ?_, ?_⟩⟩
  · exact ⟨s.setVF 0, rfl, s.V_setV_self 0xF 0, regsExcept_setV s 0xF 0, changesOnly_setV s 0xF 0⟩
  · intro n m hm ha
    obtain ⟨t, ht, hexec, hregs, honly⟩ := execDXYN_inside x y (n := m) (s := s) (by omega)
    rw [hm] at ht
    obtain ⟨u, hu, rfl⟩ := drawRows_succ_ok ht
    refine ⟨u, _, congrArg Host.Outcome.next (drawRows_ok_state hu), hexec,
      cell_drawRow x y n.val _ u, fun hc => ?_, fun hc => ?_, hregs, honly⟩
    · rw [VF_drawRow]
      exact if_pos hc
    · rw [VF_drawRow]
      exact if_neg fun ⟨cx, cy, hcell, hp⟩ => Bool.false_ne_true ((hc cx cy hcell).symm.trans hp)
  · intro n m hnm ha hin
    have hrows : n.val = 0 ∨ s.i.toNat + n.val ≤ 4096 := by
      by_contra hout
      have := hin (n.val - 1) (by omega)
      omega
    obtain ⟨u, hu, hexec, -⟩ := execDXYN_inside x y hrows
    have hraise := drawRows_raised hu ha hnm
    exact ⟨u, _, hexec, congrArg (fun f => Host.Outcome.next (Flow.state f)) hraise, rfl,
      changesOnly_raise u _⟩

/-- Settles O50: the rows of the sprite lie on different rows of the screen, so each finds the cells under
it as they were before the draw. -/
theorem drawSpriteInvertsItsPixels : Obligations.DrawSpriteInvertsItsPixels := by
  intro x y n s hx hy hrows
  obtain ⟨t, ht, hexec, hregs, honly⟩ := execDXYN_inside x y hrows
  have hcell := cell_drawRows hx hy (by omega) ht
  have hVF := VF_drawRows hx hy (by omega) ht
  rw [State.setVF_eq, State.V_setV_ne s _ hx, State.V_setV_ne s _ hy] at hcell hVF
  rw [State.V_setV_self] at hVF
  refine ⟨t, hexec, hcell, ?_, ?_, hregs, honly⟩
  · rw [hVF]
    exact Ne.ite_eq_left_iff (by decide)
  · rw [hVF]
    exact (ite_eq_or_eq _ _ _).symm

/-- Settles O51: the second draw inverts the same cells again, and finds set under a set bit what the first
found clear. -/
theorem doubleDrawRestoresTheScreen : Obligations.DoubleDrawRestoresTheScreen := by
  intro x y n s hx hy hrows
  obtain ⟨t, ht, htcell, -, -, htregs, htonly⟩ := drawSpriteInvertsItsPixels x y n s hx hy hrows
  have hi : t.i = s.i := htonly .index (by decide)
  obtain ⟨u, hu, hucell, huVF, -, huregs, huonly⟩ :=
    drawSpriteInvertsItsPixels x y n t hx hy (by rwa [hi])
  rw [spritePixel_congr hi (htonly .memory (by decide)), htregs x (by simpa using hx),
    htregs y (by simpa using hy)] at hucell huVF
  have hcell : ∀ cx cy, u.cell cx cy = s.cell cx cy := fun cx cy => by
    rw [hucell, htcell, Bool.xor_assoc, Bool.xor_self, Bool.xor_false]
  refine ⟨t, u, ht, hu, hcell, huVF.trans ?_, htregs.trans huregs,
    (htonly.trans huonly).drop (p := .screen) hcell (by decide)⟩
  refine exists_congr fun cx => exists_congr fun cy => and_congr_left fun hp => ?_
  rw [htcell, hp, Bool.xor_true, Bool.not_eq_true']

/-- Settles O48: one write of the screen. -/
theorem clearScreen : Obligations.ClearScreen :=
  ⟨encodes_of_row (by simp [rowsR77]), fun s =>
    ⟨_, rfl, s.cell_clearCells, changesOnly_clearCells s⟩⟩

end Sys2Proof.Machine
end

section
/-! SUPPORT. What a cycle changes before its instruction runs, the key that the tick's sample leaves to come, and
the obligations of spec/44_input_timers.md on the key wait and the timers (R212 to R216). -/

namespace Sys2Proof.Machine

/-- The sample of `tick` uses up no sample of the latch (R13, R15). -/
theorem Env.key_afterTick (e : Env) : e.afterTick.key = e.key := by
  unfold Env.afterTick
  cases e.ticks with
  | nil => rfl
  | cons t ts => rfl

/-- The advance of step 2 is a write of PC (R74). -/
theorem changesOnly_advance (s : State) : ChangesOnly [.pc] s (advance s) :=
  changesOnly_setPC s (s.pc + 2)

/-- What a cycle changes before its instruction runs: PC, and what the tick stage may write (R74, R75). -/
theorem changesOnly_tickStage_advance_beginCycle (s : State) :
    ChangesOnly [.pc, .delay, .soundTimer, .sound, .signal, .inputs] s
      (tickStage (advance (beginCycle s))) :=
  (((changesOnly_beginCycle s).seq (changesOnly_advance _)).seq (changesOnly_tickStage _)).mono
    (by decide)

/-- Settles O16: FX0A takes back the advance of PC, so what is left of the cycle is its tick and its samples. -/
theorem keyWaitMakesNoProgress : Obligations.KeyWaitMakesNoProgress := by
  intro s x hf hp hdec hkey
  let u := tickStage (advance (beginCycle s))
  have hwait : u.env.key = none := (Env.key_afterTick s.env).trans hkey
  have hstep : step s = .next (u.afterKey.setPC (u.pc - 2)) := by
    rw [step_of_fetch_inside hf hp, dispatchWord_of_decode hdec]
    exact execFX0A_none x hwait
  have hpc : (u.afterKey.setPC (u.pc - 2)).pc = s.pc := BitVec.add_sub_cancel s.pc 2
  have hframe := ((changesOnly_tickStage_advance_beginCycle s).seq (changesOnly_afterKey u)).seq
    (changesOnly_setPC _ (u.pc - 2))
  exact ⟨_, hstep, rfl, rfl, rfl, rfl, hframe.drop (p := .pc) hpc (by decide)⟩

/-- Settles O53: one write of a register. -/
theorem readDelayTimer : Obligations.ReadDelayTimer :=
  ⟨encodes_of_row (by simp [rowsR77]), fun x s =>
    ⟨_, rfl, s.V_setV_self x s.dt, regsExcept_setV s x _, changesOnly_setV s x _⟩⟩

/-- Settles O55: one write of a timer each, and none of SND. -/
theorem setTimers : Obligations.SetTimers :=
  ⟨encodes_of_row (by simp [rowsR77]), encodes_of_row (by simp [rowsR77]), fun x s =>
    ⟨⟨_, rfl, rfl, changesOnly_setDT s (s.V x)⟩, ⟨_, rfl, rfl, changesOnly_setST s (s.V x)⟩⟩⟩

end Sys2Proof.Machine
end

section
/-! SUPPORT. What a press of the input latch answers and leaves (spec/60_exceptions.md R250), and the obligations
of spec/60_exceptions.md on the instructions' faults and the host's operations. -/

namespace Sys2Proof.Machine

/-! ### The input latch -/

theorem Latch.press_some_of_lt (l : Latch) {k : Nat} (h : k < 16) :
    l.press (some k) = .ok (some ⟨k, h⟩) :=
  dif_pos h

theorem Latch.press_some_of_le (l : Latch) {k : Nat} (h : 16 ≤ k) :
    l.press (some k) = .error .invalidKeyCode :=
  dif_neg (Nat.not_lt.2 h)

/-- A press that succeeds leaves what it answers (R250). -/
theorem Latch.afterPress_of_ok {l l' : Latch} {k : Option Nat} (h : l.press k = .ok l') :
    l.afterPress k = l' := by
  rw [Latch.afterPress, h]

/-- A press that fails leaves the latch as it was (R250, D23). -/
theorem Latch.afterPress_of_error {l : Latch} {k : Option Nat} {e : HostError}
    (h : l.press k = .error e) : l.afterPress k = l := by
  rw [Latch.afterPress, h]

/-! ### The obligations -/

/-- Settles O25: FAULT stays empty, or holds the one fault that the instruction raises. -/
theorem eachInstructionRaisesItsOwnFault : Obligations.EachInstructionRaisesItsOwnFault :=
  fun _ _ _ h hs => (exec_fault_cases h).imp_left fun hkept => hkept.trans hs

/-- Settles O60: one write of the screen, the latch by the range of the code, and no meaning for two operations
at once. -/
theorem hostBoundaryContracts : Obligations.HostBoundaryContracts := by
  refine ⟨fun s => ⟨s.cell_clearCells, changesOnly_clearCells s⟩, fun l k => ⟨fun h => ?_, fun h => ?_,
    rfl, Latch.afterPress_of_ok (l := l) rfl⟩, fun _ _ _ _ => rfl⟩
  · rw [Latch.afterPress_of_ok (l.press_some_of_lt h)]
    rfl
  · have hpress := l.press_some_of_le h
    exact ⟨hpress, Latch.afterPress_of_error hpress⟩

end Sys2Proof.Machine
end

section
/-! SUPPORT. The obligation of spec/70_reset_and_hazards.md on the invariant at reset (R270, R271). -/

namespace Sys2Proof.Machine

/-- An image that `Reset` accepts has the right size, and the state is then the reset state over the image's
memory (R270, R271). -/
theorem resetWith_cases {font2F : Vector Byte 70} {env : Env} {image : List Byte} {s : State}
    (h : resetWith font2F env image = .ok s) : image.length = Config.memorySize ∧
      s = { State.reset with mem := Memory.load 0 (overlayFont font2F image), env := env } := by
  by_cases hlen : image.length = Config.memorySize
  · exact ⟨hlen, Except.ok.inj (h.symm.trans (resetWith_ok font2F env hlen))⟩
  · cases h.symm.trans (if_neg hlen)

/-- The stack entries of the reset state are 0 (R271). -/
@[simp] theorem State.reset_S (k : Fin 16) : State.reset.S k = 0 := by
  simp [State.S, State.reset]

/-- The reset state over any canonical memory and any environment meets the invariant: PC is 0x200, the stack
holds zeros, and there is no fault and no signal (R271). -/
theorem State.inv_reset_with {m : Memory} (hm : m.wf) (env : Env) :
    State.Inv { State.reset with mem := m, env := env } where
  mem := hm
  pc := show Config.entryPoint.toNat < 0x10FF by decide
  stack k := by
    change (State.reset.S k).toNat ≤ 0x1000
    simp
  fault _ h := nomatch h
  signal _ h := nomatch h

/-- Settles O15: both are the reset state over a canonical memory, the empty one or a loaded image that fits. -/
theorem resetMeetsTheInvariant : Obligations.ResetMeetsTheInvariant := by
  refine ⟨State.inv_reset_with Memory.wf_reset Env.initial, fun font2F env image s h => ?_⟩
  obtain ⟨hlen, rfl⟩ := resetWith_cases h
  have hfits : 0 + (overlayFont font2F image).length ≤ Config.memorySize := by
    rw [Nat.zero_add, overlayFont_length font2F hlen]
  exact State.inv_reset_with (Memory.wf_load hfits) env

end Sys2Proof.Machine
end
